-- ==== Sys2Proof/Word.lean ====
section
/-! DEFINITION. The word types of the machine and nothing else: every value is an unsigned integer of a stated
width (spec/00_scope.md R9); registers are named by an index 0 to 15 (spec/10_state.md R20). -/

namespace Sys2Proof

/-- An 8-bit value: a V register, a timer, a byte of memory (R20, R26, R41). -/
abbrev Byte := BitVec 8

/-- A 16-bit value: an opcode, `PC`, `I`, a return address (R8, R22, R23, R25). -/
abbrev Word := BitVec 16

/-- A 12-bit address field `nnn` (R61). -/
abbrev Addr := BitVec 12

/-- The index of a general register `V0..VF` (R20). -/
abbrev Reg := Fin 16

/-- `VF`, the machine's only flag (R21). -/
abbrev Reg.vf : Reg := 15

/-- The key snapshot: one boolean per key 0x0 to 0xF, true = pressed (R31). -/
abbrev Keys := Vector Bool 16

/-- The framebuffer: 32 rows of 64 one-bit pixels, row first (R29). -/
abbrev Framebuffer := Vector (Vector Bool 64) 32

end Sys2Proof
end

