-- ==== Sys2Proof/Config.lean ====
section
/-! DEFINITION. What is fixed for this hardware (the parameters of spec/00_scope.md R7) and the free values: constants
with no body, about which nothing can be proved, for what the spec leaves open. -/

namespace Sys2Proof

/-- `MEM_SIZE`, bytes of addressable memory (R7, R28; fixed by decision D25). -/
@[simp] abbrev Config.memSize : Nat := 4096

/-- `LOAD_ADDR`, first byte of the ROM image and reset value of `PC` (R7, R23). -/
@[simp] abbrev Config.loadAddr : Nat := 0x200

/-- `FONT_BASE`, first byte of the font table (R7). -/
@[simp] abbrev Config.fontBase : Nat := 0

/-- `GLYPH_BYTES`, bytes of one glyph (R7). -/
@[simp] abbrev Config.glyphBytes : Nat := 5

/-- `STACK_CAPACITY`, greatest number of return addresses (R7, R25). -/
@[simp] abbrev Config.stackCapacity : Nat := 16

/-- `NUM_KEYS`, entries of the key snapshot, and the number of glyphs (R7, R56). -/
@[simp] abbrev Config.numKeys : Nat := 16

/-- `INSTR_BYTES`, bytes of one instruction (R7, R60). -/
@[simp] abbrev Config.instrBytes : Nat := 2

/-- The glyphs of digits 0 to 7 (R56). PRESUMED: the spec gives these bytes from general knowledge (93 G2, decision
D15; log 2). -/
def Config.fontLow : List Byte :=
  [0xF0, 0x90, 0x90, 0x90, 0xF0,  0x20, 0x60, 0x20, 0x20, 0x70,
   0xF0, 0x10, 0xF0, 0x80, 0xF0,  0xF0, 0x10, 0xF0, 0x10, 0xF0,
   0x90, 0x90, 0xF0, 0x10, 0x10,  0xF0, 0x80, 0xF0, 0x10, 0xF0,
   0xF0, 0x80, 0xF0, 0x90, 0xF0,  0xF0, 0x10, 0x20, 0x40, 0x40]

/-- The glyphs of digits 8 to F (R56). PRESUMED as `Config.fontLow` (log 2). -/
def Config.fontHigh : List Byte :=
  [0xF0, 0x90, 0xF0, 0x90, 0xF0,  0xF0, 0x90, 0xF0, 0x10, 0xF0,
   0xF0, 0x90, 0xF0, 0x90, 0x90,  0xE0, 0x90, 0xE0, 0x90, 0xE0,
   0xF0, 0x80, 0x80, 0x80, 0xF0,  0xE0, 0x90, 0x90, 0x90, 0xE0,
   0xF0, 0x80, 0xF0, 0x80, 0xF0,  0xF0, 0x80, 0xF0, 0x80, 0x80]

/-- `FONT[0..79]`, the font table (R7, R56). -/
def Config.font : List Byte := Config.fontLow ++ Config.fontHigh

/-! ## Free values: the host's inputs beyond the queue (log 14)

The argument is the count of host inputs taken so far (`State.taken`), so that every cycle has inputs of its own. -/

/-- The key snapshot of a cycle for which no input is queued: any of the 65536 snapshots (R31, 93 U15). -/
opaque Config.freeKeys : Nat → Keys

/-- The random byte of a cycle for which no input is queued: any byte (R32, 93 U4). -/
opaque Config.freeRandom : Nat → Byte

/-! ## Free values: the state that is unspecified after a fault (R170, 93 U10; log 11)

The argument is all that is known at the fault (the state it is raised in, with its count of inputs taken, and the
fault record), whatever its type, so that nothing relates the values after two different faults. -/

/-- The V registers after a fault. -/
opaque Config.haltedV {σ : Type} : σ → Vector Byte 16

/-- The index register after a fault. -/
opaque Config.haltedI {σ : Type} : σ → Word

/-- The program counter after a fault. -/
opaque Config.haltedPc {σ : Type} : σ → Word

/-- The call stack after a fault; the machine keeps at most `Config.stackCapacity` entries of it. -/
opaque Config.haltedStack {σ : Type} : σ → List Word

/-- The delay timer after a fault. -/
opaque Config.haltedDt {σ : Type} : σ → Byte

/-- The sound timer after a fault. -/
opaque Config.haltedSt {σ : Type} : σ → Byte

/-- The memory after a fault: for each address, a byte. -/
opaque Config.haltedByte {σ : Type} : σ → Nat → Byte

/-- The framebuffer after a fault. -/
opaque Config.haltedFb {σ : Type} : σ → Framebuffer

/-- The display-changed flag after a fault. -/
opaque Config.haltedChanged {σ : Type} : σ → Bool

end Sys2Proof
end

