-- ==== Sys2Proof/Syntax.lean ====
section
/-! DEFINITION. The instruction set: one constructor per row of spec/opcode_table.json, in the table's order
(spec/00_scope.md R12, spec/30_encoding.md R62, R63). -/

namespace Sys2Proof

/-- A decoded instruction with its operands (R62): registers are indices 0 to 15, `kk` an unsigned 8-bit immediate,
`nnn` an unsigned 12-bit address, `n` a sprite height 0 to 15 (R63). Bits the decoder ignores (R70) are not kept. -/
inductive Instr where
  /-- `CLS` (44_display.md R141). -/
  | cls
  /-- `RET` (41_control_flow.md R100). -/
  | ret
  /-- `JUMP nnn` (R101). -/
  | jump (nnn : Addr)
  /-- `CALL nnn` (R102). -/
  | call (nnn : Addr)
  /-- `SE Vx, kk` (R105). -/
  | se (x : Reg) (kk : Byte)
  /-- `SNE Vx, kk` (R106). -/
  | sne (x : Reg) (kk : Byte)
  /-- `SER Vx, Vy` (R107). -/
  | ser (x y : Reg)
  /-- `LD Vx, kk` (42_alu.md R111). -/
  | ld (x : Reg) (kk : Byte)
  /-- `ADD Vx, kk` (R112). -/
  | add (x : Reg) (kk : Byte)
  /-- `LDR Vx, Vy` (R113). -/
  | ldr (x y : Reg)
  /-- `OR Vx, Vy` (R114). -/
  | or (x y : Reg)
  /-- `AND Vx, Vy` (R115). -/
  | and (x y : Reg)
  /-- `XOR Vx, Vy` (R116). -/
  | xor (x y : Reg)
  /-- `ADDR Vx, Vy` (R117). -/
  | addr (x y : Reg)
  /-- `SUBR Vx, Vy` (R118). -/
  | subr (x y : Reg)
  /-- `SHR Vx` (R120). -/
  | shr (x : Reg)
  /-- `SUBNR Vx, Vy` (R119). -/
  | subnr (x y : Reg)
  /-- `SHL Vx` (R121). -/
  | shl (x : Reg)
  /-- `SNER Vx, Vy` (R108). -/
  | sner (x y : Reg)
  /-- `LDI nnn` (43_index_memory.md R131). -/
  | ldi (nnn : Addr)
  /-- `JUMPV0 nnn` (R103). -/
  | jumpv0 (nnn : Addr)
  /-- `RND Vx, kk` (R122). -/
  | rnd (x : Reg) (kk : Byte)
  /-- `DRW Vx, Vy, n` (44_display.md R142, R143). -/
  | drw (x y : Reg) (n : Fin 16)
  /-- `SKP Vx` (45_keypad_timers.md R150). -/
  | skp (x : Reg)
  /-- `SKNP Vx` (R151). -/
  | sknp (x : Reg)
  /-- `LDVDT Vx` (R153). -/
  | ldvdt (x : Reg)
  /-- `LDK Vx` (R152). -/
  | ldk (x : Reg)
  /-- `LDDTV Vx` (R155). -/
  | lddtv (x : Reg)
  /-- `LDSTV Vx` (R156). -/
  | ldstv (x : Reg)
  /-- `ADDI Vx` (R132). -/
  | addi (x : Reg)
  /-- `LDFONT Vx` (R133). -/
  | ldfont (x : Reg)
  /-- `LDBCD Vx` (R134). -/
  | ldbcd (x : Reg)
  /-- `STARR Vx` (R135). -/
  | starr (x : Reg)
  /-- `LDARR Vx` (R136). -/
  | ldarr (x : Reg)
  deriving DecidableEq, Repr

end Sys2Proof
end

