-- ==== Sys2Proof/WellFormed.lean ====
section
/-! DEFINITION. The checks on what comes from outside. An `Instr` needs none: its operand types have exactly the values
its fields have (spec/30_encoding.md R63), so an ill-formed instruction cannot be written down. What can be ill-formed is
an opcode with ignored bits set (R70) and a ROM image that does not fit (spec/20_memory.md R57). -/

namespace Sys2Proof

/-- The bits of an opcode that the decoder ignores (R70): the low nibble in groups 5 and 9, the field `y` in SHR and
SHL. -/
def ignoredBits (op : Word) : Word :=
  if op &&& 0xF000 = 0x5000 ∨ op &&& 0xF000 = 0x9000 then 0x000F
  else if op &&& 0xF00F = 0x8006 ∨ op &&& 0xF00F = 0x800E then 0x00F0
  else 0

/-- A canonical opcode: every ignored bit is 0 (R70). The machine runs the others too; only the way back from an
opcode to itself through the encoder needs this check. -/
def canonicalOpcode (op : Word) : Bool := op &&& ignoredBits op == 0

/-- A ROM image that fits: at most `MEM_SIZE - LOAD_ADDR` = 3584 bytes (R57). -/
def romFits (rom : List Byte) : Bool := rom.length ≤ Config.memSize - Config.loadAddr

end Sys2Proof
end

