-- ==== Sys2Proof/Decode.lean ====
section
/-! DEFINITION. The decoder, a total function from 16-bit opcodes (spec/30_encoding.md R64 to R71), and after it the
encoder, written from the same layouts (R62). The opcode values come from the spec's table; PRESUMED beyond its four
anchors, since the spec takes them from general knowledge (R75, decision D16; log 3). -/

namespace Sys2Proof

/-- What the decoder answers: a known instruction, or the explicit `Unknown(op)` (R64, R69). -/
inductive Decoded where
  | known (i : Instr)
  | unknown (op : Word)
  deriving DecidableEq, Repr

/-- `op[hi:lo]`, the unsigned integer formed by bits `hi` down to `lo` (R8). -/
def slice (op : Word) (hi lo : Nat) : Nat := op.toNat / 2 ^ lo % 2 ^ (hi - lo + 1)

/-- `g = op[15:12]`, the first-level dispatch (R61). -/
def fieldG (op : Word) : Nat := slice op 15 12

/-- `x = op[11:8]` (R61). -/
def fieldX (op : Word) : Reg := ⟨slice op 11 8, Nat.mod_lt _ (by decide)⟩

/-- `y = op[7:4]` (R61). -/
def fieldY (op : Word) : Reg := ⟨slice op 7 4, Nat.mod_lt _ (by decide)⟩

/-- `n = op[3:0]` (R61). -/
def fieldN (op : Word) : Fin 16 := ⟨slice op 3 0, Nat.mod_lt _ (by decide)⟩

/-- `kk = op[7:0]` (R61). -/
def fieldKK (op : Word) : Byte := BitVec.ofNat 8 (slice op 7 0)

/-- `nnn = op[11:0]` (R61). -/
def fieldNNN (op : Word) : Addr := BitVec.ofNat 12 (slice op 11 0)

/-- Group 0: the whole opcode decides (R65). -/
def decodeGroup0 (op : Word) : Decoded :=
  if op = 0x00E0 then .known .cls
  else if op = 0x00EE then .known .ret
  else .unknown op

/-- Group 8: the low nibble decides (R66). -/
def decodeGroup8 (op : Word) : Decoded :=
  match slice op 3 0 with
  | 0x0 => .known (.ldr (fieldX op) (fieldY op))
  | 0x1 => .known (.or (fieldX op) (fieldY op))
  | 0x2 => .known (.and (fieldX op) (fieldY op))
  | 0x3 => .known (.xor (fieldX op) (fieldY op))
  | 0x4 => .known (.addr (fieldX op) (fieldY op))
  | 0x5 => .known (.subr (fieldX op) (fieldY op))
  | 0x6 => .known (.shr (fieldX op))
  | 0x7 => .known (.subnr (fieldX op) (fieldY op))
  | 0xE => .known (.shl (fieldX op))
  | _ => .unknown op

/-- Group E: the low byte decides (R67). -/
def decodeGroupE (op : Word) : Decoded :=
  match slice op 7 0 with
  | 0x9E => .known (.skp (fieldX op))
  | 0xA1 => .known (.sknp (fieldX op))
  | _ => .unknown op

/-- Group F: the low byte decides (R68). -/
def decodeGroupF (op : Word) : Decoded :=
  match slice op 7 0 with
  | 0x07 => .known (.ldvdt (fieldX op))
  | 0x0A => .known (.ldk (fieldX op))
  | 0x15 => .known (.lddtv (fieldX op))
  | 0x18 => .known (.ldstv (fieldX op))
  | 0x1E => .known (.addi (fieldX op))
  | 0x29 => .known (.ldfont (fieldX op))
  | 0x33 => .known (.ldbcd (fieldX op))
  | 0x55 => .known (.starr (fieldX op))
  | 0x65 => .known (.ldarr (fieldX op))
  | _ => .unknown op

/-- The decoder: first level on the top nibble, second level in groups 0, 8, E and F only (R64). In groups 5 and 9 the
low nibble is ignored (R70; DESIGN CHOICE, the spec's decision D12; log 4). -/
def decode (op : Word) : Decoded :=
  match fieldG op with
  | 0x0 => decodeGroup0 op
  | 0x1 => .known (.jump (fieldNNN op))
  | 0x2 => .known (.call (fieldNNN op))
  | 0x3 => .known (.se (fieldX op) (fieldKK op))
  | 0x4 => .known (.sne (fieldX op) (fieldKK op))
  | 0x5 => .known (.ser (fieldX op) (fieldY op))
  | 0x6 => .known (.ld (fieldX op) (fieldKK op))
  | 0x7 => .known (.add (fieldX op) (fieldKK op))
  | 0x8 => decodeGroup8 op
  | 0x9 => .known (.sner (fieldX op) (fieldY op))
  | 0xA => .known (.ldi (fieldNNN op))
  | 0xB => .known (.jumpv0 (fieldNNN op))
  | 0xC => .known (.rnd (fieldX op) (fieldKK op))
  | 0xD => .known (.drw (fieldX op) (fieldY op) (fieldN op))
  | 0xE => decodeGroupE op
  | _ => decodeGroupF op

/-- The opcode of the two bytes of an instruction, high byte first (spec/20_memory.md R47). -/
def opcodeOfBytes (hi lo : Byte) : Word := BitVec.ofNat 16 (hi.toNat * 256 + lo.toNat)

/-- The high byte of a word, `w[15:8]` (R8). -/
def highByte (w : Word) : Byte := BitVec.ofNat 8 (slice w 15 8)

/-- The low byte of a word, `w[7:0]` (R8). -/
def lowByte (w : Word) : Byte := BitVec.ofNat 8 (slice w 7 0)

/-- The decoder's answer as an option: `none` for Unknown. -/
def Decoded.instr? : Decoded → Option Instr
  | .known i => some i
  | .unknown _ => none

/-- The word of an opcode-table row, bit 0 the least significant; bits above `nbits` are 0. An instruction has 16 bits
(R60): a longer word is no instruction. -/
def tableWord (nbits w : Nat) : Option Word :=
  if nbits ≤ 16 ∧ w < 2 ^ nbits then some (BitVec.ofNat 16 w) else none

/-- The instruction the decoder reads from a table word, through the two bytes as memory holds them (R47). -/
def decodeTableWord (nbits w : Nat) : Option Instr :=
  match tableWord nbits w with
  | some op => (decode (opcodeOfBytes (highByte op) (lowByte op))).instr?
  | none => none

/-! ## The encoder -/

/-- Format `NNN`: group nibble and address (R62). -/
def wordNNN (g : Nat) (nnn : Addr) : Word := BitVec.ofNat 16 (g * 4096 + nnn.toNat)

/-- Formats `XKK` and `X`: group nibble, register, low byte (R62). -/
def wordXKK (g : Nat) (x : Reg) (kk : Byte) : Word := BitVec.ofNat 16 (g * 4096 + x.val * 256 + kk.toNat)

/-- Formats `XY` and `XYN`: group nibble, two registers, low nibble (R62). -/
def wordXYN (g : Nat) (x y : Reg) (n : Fin 16) : Word :=
  BitVec.ofNat 16 (g * 4096 + x.val * 256 + y.val * 16 + n.val)

/-- The canonical opcode of an instruction, ignored bits 0 (R64 to R68, R70). -/
def encode : Instr → Word
  | .cls => 0x00E0
  | .ret => 0x00EE
  | .jump nnn => wordNNN 0x1 nnn
  | .call nnn => wordNNN 0x2 nnn
  | .se x kk => wordXKK 0x3 x kk
  | .sne x kk => wordXKK 0x4 x kk
  | .ser x y => wordXYN 0x5 x y 0
  | .ld x kk => wordXKK 0x6 x kk
  | .add x kk => wordXKK 0x7 x kk
  | .ldr x y => wordXYN 0x8 x y 0x0
  | .or x y => wordXYN 0x8 x y 0x1
  | .and x y => wordXYN 0x8 x y 0x2
  | .xor x y => wordXYN 0x8 x y 0x3
  | .addr x y => wordXYN 0x8 x y 0x4
  | .subr x y => wordXYN 0x8 x y 0x5
  | .shr x => wordXYN 0x8 x 0 0x6
  | .subnr x y => wordXYN 0x8 x y 0x7
  | .shl x => wordXYN 0x8 x 0 0xE
  | .sner x y => wordXYN 0x9 x y 0
  | .ldi nnn => wordNNN 0xA nnn
  | .jumpv0 nnn => wordNNN 0xB nnn
  | .rnd x kk => wordXKK 0xC x kk
  | .drw x y n => wordXYN 0xD x y n
  | .skp x => wordXKK 0xE x 0x9E
  | .sknp x => wordXKK 0xE x 0xA1
  | .ldvdt x => wordXKK 0xF x 0x07
  | .ldk x => wordXKK 0xF x 0x0A
  | .lddtv x => wordXKK 0xF x 0x15
  | .ldstv x => wordXKK 0xF x 0x18
  | .addi x => wordXKK 0xF x 0x1E
  | .ldfont x => wordXKK 0xF x 0x29
  | .ldbcd x => wordXKK 0xF x 0x33
  | .starr x => wordXKK 0xF x 0x55
  | .ldarr x => wordXKK 0xF x 0x65

/-! ## The opcode table -/

/-- A row of the opcode map: an opcode selects it when `op & mask = value` (spec/30_encoding.md section 6). -/
structure OpcodeRow where
  mnemonic : String
  value : Word
  mask : Word
  deriving DecidableEq, Repr

/-- Rows CLS to XOR of the opcode map (30_encoding.md section 6). -/
def opcodeRowsLow : List OpcodeRow :=
  [⟨"CLS", 0x00E0, 0xFFFF⟩, ⟨"RET", 0x00EE, 0xFFFF⟩, ⟨"JUMP", 0x1000, 0xF000⟩, ⟨"CALL", 0x2000, 0xF000⟩,
   ⟨"SE", 0x3000, 0xF000⟩, ⟨"SNE", 0x4000, 0xF000⟩, ⟨"SER", 0x5000, 0xF000⟩, ⟨"LD", 0x6000, 0xF000⟩,
   ⟨"ADD", 0x7000, 0xF000⟩, ⟨"LDR", 0x8000, 0xF00F⟩, ⟨"OR", 0x8001, 0xF00F⟩, ⟨"AND", 0x8002, 0xF00F⟩,
   ⟨"XOR", 0x8003, 0xF00F⟩]

/-- Rows ADDR to DRW of the opcode map. -/
def opcodeRowsMid : List OpcodeRow :=
  [⟨"ADDR", 0x8004, 0xF00F⟩, ⟨"SUBR", 0x8005, 0xF00F⟩, ⟨"SHR", 0x8006, 0xF00F⟩, ⟨"SUBNR", 0x8007, 0xF00F⟩,
   ⟨"SHL", 0x800E, 0xF00F⟩, ⟨"SNER", 0x9000, 0xF000⟩, ⟨"LDI", 0xA000, 0xF000⟩, ⟨"JUMPV0", 0xB000, 0xF000⟩,
   ⟨"RND", 0xC000, 0xF000⟩, ⟨"DRW", 0xD000, 0xF000⟩]

/-- Rows SKP to LDARR of the opcode map. -/
def opcodeRowsHigh : List OpcodeRow :=
  [⟨"SKP", 0xE09E, 0xF0FF⟩, ⟨"SKNP", 0xE0A1, 0xF0FF⟩, ⟨"LDVDT", 0xF007, 0xF0FF⟩, ⟨"LDK", 0xF00A, 0xF0FF⟩,
   ⟨"LDDTV", 0xF015, 0xF0FF⟩, ⟨"LDSTV", 0xF018, 0xF0FF⟩, ⟨"ADDI", 0xF01E, 0xF0FF⟩, ⟨"LDFONT", 0xF029, 0xF0FF⟩,
   ⟨"LDBCD", 0xF033, 0xF0FF⟩, ⟨"STARR", 0xF055, 0xF0FF⟩, ⟨"LDARR", 0xF065, 0xF0FF⟩]

/-- The 34 rows of the opcode map. -/
def opcodeRows : List OpcodeRow := opcodeRowsLow ++ opcodeRowsMid ++ opcodeRowsHigh

/-- Whether an opcode selects a row. -/
def OpcodeRow.selects (row : OpcodeRow) (op : Word) : Bool := op &&& row.mask == row.value

/-- The row of the opcode table for an instruction, name, value and mask as spec/opcode_table.json has them. -/
def tableRow : Instr → OpcodeRow
  | .cls => ⟨"CLS", 0x00E0, 0xFFFF⟩
  | .ret => ⟨"RET", 0x00EE, 0xFFFF⟩
  | .jump _ => ⟨"JUMP", 0x1000, 0xF000⟩
  | .call _ => ⟨"CALL", 0x2000, 0xF000⟩
  | .se _ _ => ⟨"SE", 0x3000, 0xF000⟩
  | .sne _ _ => ⟨"SNE", 0x4000, 0xF000⟩
  | .ser _ _ => ⟨"SER", 0x5000, 0xF000⟩
  | .ld _ _ => ⟨"LD", 0x6000, 0xF000⟩
  | .add _ _ => ⟨"ADD", 0x7000, 0xF000⟩
  | .ldr _ _ => ⟨"LDR", 0x8000, 0xF00F⟩
  | .or _ _ => ⟨"OR", 0x8001, 0xF00F⟩
  | .and _ _ => ⟨"AND", 0x8002, 0xF00F⟩
  | .xor _ _ => ⟨"XOR", 0x8003, 0xF00F⟩
  | .addr _ _ => ⟨"ADDR", 0x8004, 0xF00F⟩
  | .subr _ _ => ⟨"SUBR", 0x8005, 0xF00F⟩
  | .shr _ => ⟨"SHR", 0x8006, 0xF00F⟩
  | .subnr _ _ => ⟨"SUBNR", 0x8007, 0xF00F⟩
  | .shl _ => ⟨"SHL", 0x800E, 0xF00F⟩
  | .sner _ _ => ⟨"SNER", 0x9000, 0xF000⟩
  | .ldi _ => ⟨"LDI", 0xA000, 0xF000⟩
  | .jumpv0 _ => ⟨"JUMPV0", 0xB000, 0xF000⟩
  | .rnd _ _ => ⟨"RND", 0xC000, 0xF000⟩
  | .drw _ _ _ => ⟨"DRW", 0xD000, 0xF000⟩
  | .skp _ => ⟨"SKP", 0xE09E, 0xF0FF⟩
  | .sknp _ => ⟨"SKNP", 0xE0A1, 0xF0FF⟩
  | .ldvdt _ => ⟨"LDVDT", 0xF007, 0xF0FF⟩
  | .ldk _ => ⟨"LDK", 0xF00A, 0xF0FF⟩
  | .lddtv _ => ⟨"LDDTV", 0xF015, 0xF0FF⟩
  | .ldstv _ => ⟨"LDSTV", 0xF018, 0xF0FF⟩
  | .addi _ => ⟨"ADDI", 0xF01E, 0xF0FF⟩
  | .ldfont _ => ⟨"LDFONT", 0xF029, 0xF0FF⟩
  | .ldbcd _ => ⟨"LDBCD", 0xF033, 0xF0FF⟩
  | .starr _ => ⟨"STARR", 0xF055, 0xF0FF⟩
  | .ldarr _ => ⟨"LDARR", 0xF065, 0xF0FF⟩

end Sys2Proof
end

