-- ==== Sys2Proof/Machine/State.lean ====
section
/-! DEFINITION. The machine's state as plain data (spec/10_state.md), the reasons a cycle can fault
(spec/60_exceptions.md R161), and the state after reset (spec/70_reset_and_hazards.md R190). -/

namespace Sys2Proof.Machine

/-- The run status (R33). -/
inductive Status where
  | running
  | halted
  | stopped
  deriving DecidableEq, Repr

/-- The five fault kinds (R161). -/
inductive FaultKind where
  | memOutOfRange
  | stackUnderflow
  | stackOverflow
  | unknownOpcode
  | operandRange
  deriving DecidableEq, Repr

/-- `raise Fault(kind, info)` (R11, R160): what an operation of a cycle raises. The cycle takes it (`takeFault`): the
next state has status HALTED and the fault record. The step itself never ends in `Host.Outcome.fault`, since the spec
gives every fault its effect; log 11. All five are safe: the machine stops for good. -/
inductive Fault where
  /-- An address outside memory: raised by fetch, DRW, LDARR (reads), LDBCD, STARR (writes) (R162). Safe. -/
  | memOutOfRange (addr : Nat)
  /-- `Pop()` on an empty stack: raised by RET (R163). Safe. -/
  | stackUnderflow
  /-- `Push` on a full stack: raised by CALL (R164, the spec's decision D2; log 8). Safe. -/
  | stackOverflow
  /-- The decoder answered Unknown: raised at dispatch (R165). Safe. -/
  | unknownOpcode
  /-- A key index or digit of 16 or more: raised by SKP, SKNP, LDFONT (R166, decisions D5, D6; log 7). Safe. -/
  | operandRange
  deriving DecidableEq, Repr

/-- Why the model gives a step no meaning. No instruction ends in one of these. -/
inductive Refusal where
  /-- An instruction without a meaning yet: no arm of `exec` answers it. Safe. -/
  | notModelled (mnemonic : String)
  /-- The host resets with a ROM image longer than 3584 bytes: raised by the host's reset only; the spec refuses the
  load and the machine does not start (20_memory.md R57, decision D18; log 17). Safe. -/
  | romTooLong (length : Nat)
  deriving DecidableEq, Repr

/-- The fault record (R34): `opcode` is present when the fetch had completed, `addr` for MemOutOfRange. -/
structure FaultRecord where
  kind : FaultKind
  /-- The address of the instruction being fetched or executed. -/
  pc : Word
  opcode : Option Word
  addr : Option Word
  deriving DecidableEq, Repr

/-- What the host does at a cycle boundary (R36 and the table of 60_exceptions.md section 8). -/
inductive HostEvent where
  /-- Schedule a cycle with its key snapshot and random byte (R31, R32, R80). -/
  | cycle (keys : Keys) (rnd : Byte)
  /-- Signal quit instead of a snapshot (R82, R167). -/
  | quit
  /-- Acknowledge that a frame has been rendered (R30, R178). -/
  | renderAck
  /-- Reset the machine with a ROM image (R190). -/
  | reset (rom : List Byte)
  deriving DecidableEq, Repr

/-- The memory `MEM` (R28) as the cells that differ from their reset contents: addresses strictly rising, below
`MEM_SIZE`, no cell equal to what an unlisted address reads as (`Memory.resetByte`; `Memory.wf` says the form holds). -/
abbrev Memory := List Host.Cell

/-- All the state the spec gives the machine (10_state.md), and two fields of the model's own: the host's coming inputs
and how many have been taken (log 13, 14). -/
structure State where
  /-- `V0..VF` (R20, R21). -/
  v : Vector Byte 16
  /-- The index register `I` (R22). -/
  i : Word
  /-- The program counter `PC` (R23). -/
  pc : Word
  /-- The call stack, most recent return address first; `depth` is its length (R25; log 23). -/
  stack : List Word
  /-- The delay timer `DT` (R26). -/
  dt : Byte
  /-- The sound timer `ST` (R27). -/
  st : Byte
  /-- The memory `MEM` (R28). -/
  mem : Memory
  /-- The framebuffer `fb` (R29). -/
  fb : Framebuffer
  /-- The display-changed flag (R30). -/
  changed : Bool
  /-- The run status (R33). -/
  status : Status
  /-- The fault record (R34). -/
  fault : Option FaultRecord
  /-- Model's own: the host's coming inputs, next one first; beyond them every input is a free value (log 13, 14). -/
  host : List HostEvent
  /-- Model's own: how many of the host's inputs have been taken; picks fresh free values (log 14). -/
  taken : Nat
  deriving DecidableEq, Repr

/-- What a meaning and a step answer. -/
abbrev Answer := Host.Outcome State Fault Refusal

/-- The machine right after reset, with an empty ROM image (R190, R191). From the source: `PC`, the empty stack, the
font. The spec's decision D1: every zero (DESIGN CHOICE, log 1, 2). Memory lists nothing: every byte reads as its reset
contents. -/
def State.reset : State where
  v := Vector.replicate 16 0
  i := 0
  pc := 0x200
  stack := []
  dt := 0
  st := 0
  mem := []
  fb := Vector.replicate 32 (Vector.replicate 64 false)
  changed := false
  status := .running
  fault := none
  host := []
  taken := 0

end Sys2Proof.Machine
end

