-- ==== Sys2Proof/Machine/Ops.lean ====
section
/-! DEFINITION. The named operations over memory, registers, stack, timers, host inputs, and taking a fault. Every
primitive of spec/00_scope.md R11 has its operation here. There is no return from a fault (spec/60_exceptions.md R172). -/

namespace Sys2Proof.Machine

/-! ## Memory (spec/20_memory.md) -/

/-- What an address reads as while nothing has written it: the font table, else 0 (R28, R56; log 2). -/
def Memory.resetByte (a : Nat) : Byte :=
  if Config.fontBase ≤ a then Config.font.getD (a - Config.fontBase) 0 else 0

/-- The byte at an address. -/
def Memory.read : Memory → Nat → Byte
  | [], a => Memory.resetByte a
  | (k, b) :: rest, a => if a = k then b else Memory.read rest a

/-- The cells with byte `b` at address `a` put before them, unless `a` reads as `b` anyway. -/
def Memory.consCell (a : Nat) (b : Byte) (rest : Memory) : Memory :=
  if b = Memory.resetByte a then rest else (a, b) :: rest

/-- Store one byte, keeping the canonical form. -/
def Memory.write : Memory → Nat → Byte → Memory
  | [], a, b => Memory.consCell a b []
  | (k, c) :: rest, a, b =>
    if a < k then Memory.consCell a b ((k, c) :: rest)
    else if a = k then Memory.consCell a b rest
    else (k, c) :: Memory.write rest a b

/-- The canonical form, for cells at addresses `lo` and above. -/
def Memory.wfFrom (lo : Nat) : Memory → Bool
  | [] => true
  | (k, b) :: rest =>
    decide (lo ≤ k) && decide (k < Config.memSize) && b != Memory.resetByte k && Memory.wfFrom (k + 1) rest

/-- The canonical form: addresses strictly rising, inside memory, no cell equal to its reset contents. -/
def Memory.wf (m : Memory) : Bool := Memory.wfFrom 0 m

/-- The canonical memory whose bytes at `a`, …, `a + n - 1` are given by `f`. -/
def Memory.ofBytes (f : Nat → Byte) (a : Nat) : Nat → Memory
  | 0 => []
  | n + 1 => Memory.consCell a (f a) (Memory.ofBytes f (a + 1) n)

/-- `MemRead(addr, 1)`: bounds-checked, never reduced (R42, R44). -/
def memRead (m : Memory) (a : Nat) : Except Fault Byte :=
  if a < Config.memSize then .ok (m.read a) else .error (.memOutOfRange a)

/-- `MemWrite(addr, 1, v)` (R43). -/
def memWrite (m : Memory) (a : Nat) (b : Byte) : Except Fault Memory :=
  if a < Config.memSize then .ok (m.write a b) else .error (.memOutOfRange a)

/-- Read `n` bytes at ascending addresses, stopping at the first fault (R49, decision D17; log 20). -/
def loadBytes (m : Memory) (a : Nat) : Nat → Except Fault (List Byte)
  | 0 => .ok []
  | n + 1 =>
    match memRead m a with
    | .error f => .error f
    | .ok b => (loadBytes m (a + 1) n).map (b :: ·)

/-- Write bytes at ascending addresses, stopping at the first fault (R49, decision D17; log 20). -/
def storeBytes (m : Memory) (a : Nat) : List Byte → Except Fault Memory
  | [] => .ok m
  | b :: bs =>
    match memWrite m a b with
    | .error f => .error f
    | .ok m' => storeBytes m' (a + 1) bs

/-! ## Registers, one update per field -/

/-- Read of general register `V[x]` (R11, R20). -/
def State.reg (s : State) (x : Reg) : Byte := s.v[x]

/-- `V[x] <- b`. -/
def State.setV (s : State) (x : Reg) (b : Byte) : State := { s with v := s.v.set x.val b x.isLt }

/-- All sixteen registers at once. -/
def State.setRegs (s : State) (v : Vector Byte 16) : State := { s with v := v }

/-- `I <- w`. -/
def State.setI (s : State) (w : Word) : State := { s with i := w }

/-- `PC <- w`. -/
def State.setPc (s : State) (w : Word) : State := { s with pc := w }

/-- The call stack. -/
def State.setStack (s : State) (l : List Word) : State := { s with stack := l }

/-- `DT <- b`. -/
def State.setDt (s : State) (b : Byte) : State := { s with dt := b }

/-- `ST <- b`. -/
def State.setSt (s : State) (b : Byte) : State := { s with st := b }

/-- The memory. -/
def State.setMem (s : State) (m : Memory) : State := { s with mem := m }

/-- The framebuffer, drawn or cleared: `changed <- 1` with it (R30). -/
def State.setDisplay (s : State) (fb : Framebuffer) : State := { s with fb := fb, changed := true }

/-- `PC <- PC + 2` when `c` holds (spec/41_control_flow.md R104). -/
def State.skipIf (s : State) (c : Bool) : State := if c then s.setPc (s.pc + 2) else s

/-! ## Call stack (spec/10_state.md R25) -/

/-- `Push(w)`, StackOverflow at capacity (R164, decision D2; log 8). -/
def State.push (s : State) (w : Word) : Except Fault State :=
  if s.stack.length < Config.stackCapacity then .ok (s.setStack (w :: s.stack)) else .error .stackOverflow

/-- `Pop()`: the popped value and the state without it, StackUnderflow when empty (R163). -/
def State.pop (s : State) : Except Fault (Word × State) :=
  match s.stack with
  | [] => .error .stackUnderflow
  | w :: rest => .ok (w, s.setStack rest)

/-! ## Timer unit and outputs (spec/60_exceptions.md) -/

/-- One timer's decrement: a timer at 0 stays 0 (R175). -/
def tickByte (b : Byte) : Byte := if b = 0 then 0 else b - 1

/-- `Tick()`: both timers, once per cycle (R175, 90_conflicts.md C2; log 19). -/
def State.tick (s : State) : State := (s.setDt (tickByte s.dt)).setSt (tickByte s.st)

/-- The tone output, `ST > 0` (R177). -/
def State.tone (s : State) : Bool := decide (0 < s.st.toNat)

/-- The redraw output of a cycle (spec/40_cycle.md R87). -/
def State.redraw (s : State) : Bool := s.changed

/-! ## The host's inputs (spec/10_state.md R31, R32, R36; log 13, 14) -/

/-- The host's next input: the head of the queue, or a cycle with free inputs. -/
def State.nextEvent (s : State) : HostEvent :=
  match s.host with
  | [] => .cycle (Config.freeKeys s.taken) (Config.freeRandom s.taken)
  | e :: _ => e

/-- This cycle's key snapshot (R31). -/
def State.keysNow (s : State) : Keys :=
  match s.nextEvent with
  | .cycle keys _ => keys
  | _ => Config.freeKeys s.taken

/-- This cycle's random byte (R32). -/
def State.randomNow (s : State) : Byte :=
  match s.nextEvent with
  | .cycle _ rnd => rnd
  | _ => Config.freeRandom s.taken

/-- The input has been taken and is discarded (R82). -/
def State.endEvent (s : State) : State := { s with host := s.host.tail, taken := s.taken + 1 }

/-- `render_ack`: `changed <- 0` (R178, decision D22; log 16). -/
def State.ackRender (s : State) : State := { s with changed := false }

/-- The host quit: `status <- STOPPED` and nothing else, in a running machine (R82, R167). -/
def State.quit (s : State) : State :=
  match s.status with
  | .running => { s with status := .stopped }
  | _ => s

/-- `Reset(rom)` (R190): the reset state with the image written at `LOAD_ADDR` through the bounds-checked write (R56,
R57). The model's own fields go on. -/
def State.restart (s : State) (rom : List Byte) : Except Fault State :=
  (storeBytes State.reset.mem Config.loadAddr rom).map fun m =>
    { State.reset.setMem m with host := s.host, taken := s.taken }

/-! ## Taking a fault (spec/60_exceptions.md R160, R170) -/

/-- The kind a fault is recorded as (R161). -/
def Fault.kind : Fault → FaultKind
  | .memOutOfRange _ => .memOutOfRange
  | .stackUnderflow => .stackUnderflow
  | .stackOverflow => .stackOverflow
  | .unknownOpcode => .unknownOpcode
  | .operandRange => .operandRange

/-- The offending address, for MemOutOfRange only (R34). -/
def Fault.addr : Fault → Option Word
  | .memOutOfRange a => some (BitVec.ofNat 16 a)
  | _ => none

/-- The numeric code of a fault kind (R161, decision D10; log 12). -/
def FaultKind.code : FaultKind → Nat
  | .memOutOfRange => 1
  | .stackUnderflow => 2
  | .stackOverflow => 3
  | .unknownOpcode => 4
  | .operandRange => 5

/-- The fault record of a fault at the instruction at `pc0` (R34, R90). -/
def Fault.record (f : Fault) (pc0 : Word) (op : Option Word) : FaultRecord :=
  { kind := f.kind, pc := pc0, opcode := op, addr := f.addr }

/-- Taking a fault: `status <- HALTED` and the fault record, with `pc0` the address of the instruction and `op` its
opcode once fetched (R90, R160). All other architectural state is unspecified (R170): free values that depend on
everything known at the fault (log 11). -/
def takeFault (f : Fault) (pc0 : Word) (op : Option Word) (s : State) : State where
  v := Config.haltedV (s, f.record pc0 op)
  i := Config.haltedI (s, f.record pc0 op)
  pc := Config.haltedPc (s, f.record pc0 op)
  stack := (Config.haltedStack (s, f.record pc0 op)).take Config.stackCapacity
  dt := Config.haltedDt (s, f.record pc0 op)
  st := Config.haltedSt (s, f.record pc0 op)
  mem := Memory.ofBytes (Config.haltedByte (s, f.record pc0 op)) 0 Config.memSize
  fb := Config.haltedFb (s, f.record pc0 op)
  changed := Config.haltedChanged (s, f.record pc0 op)
  status := .halted
  fault := some (f.record pc0 op)
  host := s.host
  taken := s.taken

/-- An instruction's own address, from the post-fetch PC (spec/10_state.md R23). -/
def State.ownAddress (s : State) : Word := s.pc - 2

/-- How a meaning that may raise a fault ends: the new state, or the fault taken for this instruction. No instruction
that can fault has ignored bits, so its opcode is `encode i` (R34, R161; log 12). -/
def settle (i : Instr) (s : State) (r : Except Fault State) : Answer :=
  .next (match r with
    | .ok t => t
    | .error f => takeFault f s.ownAddress (some (encode i)) s)

/-- How a meaning that cannot fault ends. -/
def done (t : State) : Answer := .next t

/-! ## Instruction fetch unit (spec/40_cycle.md R83) -/

/-- `op <- MemRead(PC, 2); PC <- PC + 2`: the high byte at `PC` is read first, then the low byte (R47, R83). -/
def fetch (s : State) : Except Fault (Word × State) :=
  match memRead s.mem s.pc.toNat with
  | .error f => .error f
  | .ok hi =>
    match memRead s.mem (s.pc.toNat + 1) with
    | .error f => .error f
    | .ok lo => .ok (opcodeOfBytes hi lo, s.setPc (s.pc + 2))

/-! ## Placing an instruction for the next step (log 18) -/

/-- Whether the host's input schedules a cycle. -/
def HostEvent.isCycle : HostEvent → Bool
  | .cycle _ _ => true
  | _ => false

/-- The state made ready to run a cycle at its next step: RUNNING, and no other host input before the cycle. A running
machine whose next input is a cycle is left as it is. -/
def State.readyToRun (s : State) : State :=
  { s with
    status := .running
    fault := if s.status = .running then s.fault else none
    host := s.host.dropWhile (fun e => !e.isCycle) }

/-- The opcode's two bytes stored at `PC` and `PC + 1`, high byte first (R47). -/
def State.placeOpcode (s : State) (op : Word) : State :=
  if s.pc.toNat + 1 < Config.memSize then
    s.setMem ((s.mem.write s.pc.toNat (highByte op)).write (s.pc.toNat + 1) (lowByte op))
  else s

end Sys2Proof.Machine
end

