-- ==== Sys2Proof/Machine/Flags.lean ====
section
/-! DEFINITION. Results and flags of the flag-writing instructions (spec/42_alu.md R110): exact integer arithmetic,
narrowed once, and the write of `VF`. -/

namespace Sys2Proof.Machine

/-- A flag as the byte `VF` holds, 0 or 1 (spec/10_state.md R21). -/
def flagByte (b : Bool) : Byte := if b then 1 else 0

/-- `(a + b) mod 256` (R112, R117). -/
def addBytes (a b : Byte) : Byte := BitVec.ofNat 8 (a.toNat + b.toNat)

/-- The carry, `a + b > 255` (R112, R117). -/
def carryOut (a b : Byte) : Bool := decide (255 < a.toNat + b.toNat)

/-- `(a - b) mod 256`, the least non-negative residue (R9, R118, R119). -/
def subBytes (a b : Byte) : Byte := BitVec.ofInt 8 ((a.toNat : Int) - (b.toNat : Int))

/-- `a > b`, strictly: the flag of the subtractions (R118, R119). -/
def strictlyGreater (a b : Byte) : Bool := decide (b.toNat < a.toNat)

/-- `a >> 1` (R120). -/
def shiftRightByte (a : Byte) : Byte := BitVec.ofNat 8 (a.toNat / 2)

/-- `a & 1`, the bit shifted out to the right (R120). -/
def lowBit (a : Byte) : Bool := decide (a.toNat % 2 = 1)

/-- `(a << 1) mod 256` (R121). -/
def shiftLeftByte (a : Byte) : Byte := BitVec.ofNat 8 (a.toNat * 2)

/-- `a >> 7`, the bit shifted out to the left (R121). -/
def highBit (a : Byte) : Bool := decide (a.toNat / 128 = 1)

/-- The result to `V[x]`, then the flag to `VF`: with `x = 0xF` the flag is what stays (R110; DESIGN CHOICE, the spec's
decision D3; log 5). -/
def State.setVWithFlag (s : State) (x : Reg) (result : Byte) (flag : Bool) : State :=
  (s.setV x result).setV Reg.vf (flagByte flag)

end Sys2Proof.Machine
end

