-- ==== Sys2Proof/Machine/Alu.lean ====
section
/-! DEFINITION. Register ALU (spec/42_alu.md R110 to R122): LD, ADD, LDR, OR, AND, XOR, ADDR, SUBR, SUBNR, SHR, SHL,
RND. None of them can fault. -/

namespace Sys2Proof.Machine

/-- `LD Vx, kk` (R111). -/
def execLd (x : Reg) (kk : Byte) (s : State) : Answer :=
  done (s.setV x kk)

/-- `ADD Vx, kk`: writes `VF` on every execution (R112). -/
def execAdd (x : Reg) (kk : Byte) (s : State) : Answer :=
  done (s.setVWithFlag x (addBytes (s.reg x) kk) (carryOut (s.reg x) kk))

/-- `LDR Vx, Vy` (R113). -/
def execLdr (x y : Reg) (s : State) : Answer :=
  done (s.setV x (s.reg y))

/-- `OR Vx, Vy` (R114). -/
def execOr (x y : Reg) (s : State) : Answer :=
  done (s.setV x (s.reg x ||| s.reg y))

/-- `AND Vx, Vy` (R115). -/
def execAnd (x y : Reg) (s : State) : Answer :=
  done (s.setV x (s.reg x &&& s.reg y))

/-- `XOR Vx, Vy` (R116). -/
def execXor (x y : Reg) (s : State) : Answer :=
  done (s.setV x (s.reg x ^^^ s.reg y))

/-- `ADDR Vx, Vy` (R117). -/
def execAddr (x y : Reg) (s : State) : Answer :=
  done (s.setVWithFlag x (addBytes (s.reg x) (s.reg y)) (carryOut (s.reg x) (s.reg y)))

/-- `SUBR Vx, Vy` (R118). -/
def execSubr (x y : Reg) (s : State) : Answer :=
  done (s.setVWithFlag x (subBytes (s.reg x) (s.reg y)) (strictlyGreater (s.reg x) (s.reg y)))

/-- `SHR Vx`: register y is neither read nor written (R120). -/
def execShr (x : Reg) (s : State) : Answer :=
  done (s.setVWithFlag x (shiftRightByte (s.reg x)) (lowBit (s.reg x)))

/-- `SUBNR Vx, Vy` (R119). -/
def execSubnr (x y : Reg) (s : State) : Answer :=
  done (s.setVWithFlag x (subBytes (s.reg y) (s.reg x)) (strictlyGreater (s.reg y) (s.reg x)))

/-- `SHL Vx` (R121). -/
def execShl (x : Reg) (s : State) : Answer :=
  done (s.setVWithFlag x (shiftLeftByte (s.reg x)) (highBit (s.reg x)))

/-- `RND Vx, kk` (R122). -/
def execRnd (x : Reg) (kk : Byte) (s : State) : Answer :=
  done (s.setV x (s.randomNow &&& kk))

end Sys2Proof.Machine
end

