-- ==== Sys2Proof/Machine/Operands.lean ====
section
/-! DEFINITION. Every operand form (spec/30_encoding.md R63, spec/43_index_memory.md R130): the 12-bit address, the one
data addressing mode, register ranges, key index and digit, BCD digits. -/

namespace Sys2Proof.Machine

/-- `zext_16(nnn)` (R11, R63). -/
def zext16 (nnn : Addr) : Word := BitVec.ofNat 16 nnn.toNat

/-- A register's value taken as a 16-bit value with zero upper bits (R11). -/
def zextByte (b : Byte) : Word := BitVec.ofNat 16 b.toNat

/-- The effective address of the first byte of an access, `I`, as an unbounded integer (R44, R130). -/
def State.baseAddr (s : State) : Nat := s.i.toNat

/-- A register value used as a key index or font digit: it must be below 16 (spec/60_exceptions.md R166, decisions D5,
D6; log 7). -/
def selector (b : Byte) : Except Fault (Fin 16) :=
  if h : b.toNat < Config.numKeys then .ok ⟨b.toNat, h⟩ else .error .operandRange

/-- The address of the glyph for a digit, from the fixed layout (R45, R133). -/
def glyphAddr (d : Fin 16) : Word := BitVec.ofNat 16 (Config.fontBase + Config.glyphBytes * d.val)

/-- The three decimal digits: hundreds, tens, ones (R134). -/
def bcdDigits (b : Byte) : List Byte :=
  [BitVec.ofNat 8 (b.toNat / 100), BitVec.ofNat 8 (b.toNat / 10 % 10), BitVec.ofNat 8 (b.toNat % 10)]

/-- `V0..Vx`, inclusive, in ascending order (R135). -/
def State.regsUpTo (s : State) (x : Reg) : List Byte := s.v.toList.take (x.val + 1)

/-- Registers `k`, `k + 1`, … set to the bytes in order (R136). -/
def fillRegs (v : Vector Byte 16) (k : Nat) : List Byte → Vector Byte 16
  | [] => v
  | b :: bs => fillRegs (v.setIfInBounds k b) (k + 1) bs

/-- "The first pressed key": the least index (spec/45_keypad_timers.md R152, decision D7; log 9). -/
def firstKey (keys : Keys) : Option (Fin 16) :=
  ([0, 1, 2, 3, 4, 5, 6, 7, 8, 9, 10, 11, 12, 13, 14, 15] : List (Fin 16)).find? fun k => keys[k]

end Sys2Proof.Machine
end

