-- ==== Sys2Proof/Machine/Control.lean ====
section
/-! DEFINITION. Control transfer (spec/41_control_flow.md R100 to R108): RET, JUMP, CALL, JUMPV0, SE, SNE, SER, SNER. In
every meaning `s.pc` is the post-fetch PC (R86). -/

namespace Sys2Proof.Machine

/-- `RET` (R100). -/
def execRet (s : State) : Answer :=
  settle .ret s (s.pop.map fun p => p.2.setPc p.1)

/-- `JUMP nnn` (R101). -/
def execJump (nnn : Addr) (s : State) : Answer :=
  done (s.setPc (zext16 nnn))

/-- `CALL nnn` (R102). -/
def execCall (nnn : Addr) (s : State) : Answer :=
  settle (.call nnn) s ((s.push s.pc).map fun t => t.setPc (zext16 nnn))

/-- `JUMPV0 nnn`: the sum is not reduced modulo 4096 (R103). -/
def execJumpv0 (nnn : Addr) (s : State) : Answer :=
  done (s.setPc (zext16 nnn + zextByte (s.reg 0)))

/-- `SE Vx, kk` (R105). -/
def execSe (x : Reg) (kk : Byte) (s : State) : Answer :=
  done (s.skipIf (s.reg x == kk))

/-- `SNE Vx, kk` (R106). -/
def execSne (x : Reg) (kk : Byte) (s : State) : Answer :=
  done (s.skipIf (s.reg x != kk))

/-- `SER Vx, Vy` (R107). -/
def execSer (x y : Reg) (s : State) : Answer :=
  done (s.skipIf (s.reg x == s.reg y))

/-- `SNER Vx, Vy` (R108). -/
def execSner (x y : Reg) (s : State) : Answer :=
  done (s.skipIf (s.reg x != s.reg y))

end Sys2Proof.Machine
end

