-- ==== Sys2Proof/Machine/Display.lean ====
section
/-! DEFINITION. Display compositor (spec/44_display.md R140 to R143): CLS and DRW. -/

namespace Sys2Proof.Machine

/-- The framebuffer row of an unbounded row number (R140). -/
def wrapRow (r : Nat) : Fin 32 := ⟨r % 32, Nat.mod_lt _ (by decide)⟩

/-- The framebuffer column of an unbounded column number (R140). -/
def wrapCol (c : Nat) : Fin 64 := ⟨c % 64, Nat.mod_lt _ (by decide)⟩

/-- `fb[r][c]` (R11, R29). -/
def pixel (fb : Framebuffer) (r : Fin 32) (c : Fin 64) : Bool := fb[r][c]

/-- `fb[r][c] <- b`. -/
def setPixel (fb : Framebuffer) (r : Fin 32) (c : Fin 64) (b : Bool) : Framebuffer :=
  fb.set r.val (fb[r].set c.val b c.isLt) r.isLt

/-- The framebuffer with every pixel 0: `clear_screen()` (R140, R141). -/
def clearScreen : Framebuffer := Vector.replicate 32 (Vector.replicate 64 false)

/-- The framebuffer under a sprite, with the collision seen so far. -/
structure Canvas where
  fb : Framebuffer
  coll : Bool
  deriving DecidableEq, Repr

/-- One sprite bit onto one pixel: XOR, and a collision when both were 1 (R140, R142). -/
def drawBit (cv : Canvas) (row col : Nat) (bit : Bool) : Canvas :=
  let old := pixel cv.fb (wrapRow row) (wrapCol col)
  { fb := setPixel cv.fb (wrapRow row) (wrapCol col) (old ^^ bit), coll := cv.coll || (bit && old) }

/-- `(row >> (7 - b)) & 1`: bit 7 of the byte is the leftmost pixel (R140, R142). -/
def spriteBit (byte : Byte) (b : Nat) : Bool := byte.getLsbD (7 - b)

/-- One sprite row: its 8 bits at columns `x0`, …, `x0 + 7` (R142). -/
def drawRow (cv : Canvas) (row x0 : Nat) (byte : Byte) : Canvas :=
  (List.range 8).foldl (fun c b => drawBit c row (x0 + b) (spriteBit byte b)) cv

/-- `draw_sprite(x, y, sprite_rows)`: the rows from top to bottom (R140). -/
def drawSprite (cv : Canvas) (x0 y0 : Nat) : List Byte → Canvas
  | [] => cv
  | byte :: rest => drawSprite (drawRow cv y0 x0 byte) x0 (y0 + 1) rest

/-- `CLS` (R141). -/
def execCls (s : State) : Answer :=
  done (s.setDisplay clearScreen)

/-- What DRW leaves once its sprite rows are read: framebuffer, `changed`, and the collision in `VF` (R142). -/
def drawn (x y : Reg) (s : State) (rows : List Byte) : State :=
  let cv := drawSprite ⟨s.fb, false⟩ (s.reg x).toNat (s.reg y).toNat rows
  (s.setDisplay cv.fb).setV Reg.vf (flagByte cv.coll)

/-- `DRW Vx, Vy, n`: the sprite is read first, whole; with `n = 0` nothing is read or drawn (R142, R143; log 10). -/
def execDrw (x y : Reg) (n : Fin 16) (s : State) : Answer :=
  settle (.drw x y n) s ((loadBytes s.mem s.baseAddr n.val).map (drawn x y s))

end Sys2Proof.Machine
end

