-- ==== Sys2Proof/Machine/Index.lean ====
section
/-! DEFINITION. Index register and memory (spec/43_index_memory.md R130 to R136): LDI, ADDI, LDFONT, LDBCD, STARR,
LDARR. `I` is unchanged by the last three (R88, R130). -/

namespace Sys2Proof.Machine

/-- `LDI nnn` (R131). -/
def execLdi (nnn : Addr) (s : State) : Answer :=
  done (s.setI (zext16 nnn))

/-- `ADDI Vx`: modulo 65536, `VF` untouched (R132; the wrap is DESIGN CHOICE, the spec's decision D4; log 6). -/
def execAddi (x : Reg) (s : State) : Answer :=
  done (s.setI (s.i + zextByte (s.reg x)))

/-- `LDFONT Vx`: reads no memory (R133). -/
def execLdfont (x : Reg) (s : State) : Answer :=
  settle (.ldfont x) s ((selector (s.reg x)).map fun d => s.setI (glyphAddr d))

/-- `LDBCD Vx` (R134). -/
def execLdbcd (x : Reg) (s : State) : Answer :=
  settle (.ldbcd x) s ((storeBytes s.mem s.baseAddr (bcdDigits (s.reg x))).map s.setMem)

/-- `STARR Vx` (R135). -/
def execStarr (x : Reg) (s : State) : Answer :=
  settle (.starr x) s ((storeBytes s.mem s.baseAddr (s.regsUpTo x)).map s.setMem)

/-- `LDARR Vx` (R136). -/
def execLdarr (x : Reg) (s : State) : Answer :=
  settle (.ldarr x) s ((loadBytes s.mem s.baseAddr (x.val + 1)).map fun bs => s.setRegs (fillRegs s.v 0 bs))

end Sys2Proof.Machine
end

