-- ==== Sys2Proof/Machine/Keypad.lean ====
section
/-! DEFINITION. Keypad instructions (spec/45_keypad_timers.md R150 to R152): SKP, SKNP, LDK. -/

namespace Sys2Proof.Machine

/-- `SKP Vx` (R150). -/
def execSkp (x : Reg) (s : State) : Answer :=
  settle (.skp x) s ((selector (s.reg x)).map fun k => s.skipIf s.keysNow[k])

/-- `SKNP Vx` (R151). -/
def execSknp (x : Reg) (s : State) : Answer :=
  settle (.sknp x) s ((selector (s.reg x)).map fun k => s.skipIf (!s.keysNow[k]))

/-- `LDK Vx`: the least pressed key, or back to this instruction's own address (R152, spec/40_cycle.md R91). -/
def execLdk (x : Reg) (s : State) : Answer :=
  done (match firstKey s.keysNow with
    | some k => s.setV x (BitVec.ofNat 8 k.val)
    | none => s.setPc (s.pc - 2))

end Sys2Proof.Machine
end

