-- ==== Sys2Proof/Machine/Timer.lean ====
section
/-! DEFINITION. Timer instructions (spec/45_keypad_timers.md R153 to R156): LDVDT, LDDTV, LDSTV. The tick of the cycle has
already run (spec/40_cycle.md R85). -/

namespace Sys2Proof.Machine

/-- `LDVDT Vx` (R153). -/
def execLdvdt (x : Reg) (s : State) : Answer :=
  done (s.setV x s.dt)

/-- `LDDTV Vx` (R155). -/
def execLddtv (x : Reg) (s : State) : Answer :=
  done (s.setDt (s.reg x))

/-- `LDSTV Vx` (R156). -/
def execLdstv (x : Reg) (s : State) : Answer :=
  done (s.setSt (s.reg x))

end Sys2Proof.Machine
end

