-- ==== Sys2Proof/Machine/Dispatch.lean ====
section
/-! DEFINITION. Dispatch (spec/40_cycle.md R86): one arm per instruction, in the order of spec/opcode_table.json. -/

namespace Sys2Proof.Machine

/-- Execute one decoded instruction against the state as fetch and tick left it (R86). -/
def exec (i : Instr) (s : State) : Host.Outcome State Fault Refusal :=
  match i with
  | .cls => Sys2Proof.Machine.execCls s
  | .ret => Sys2Proof.Machine.execRet s
  | .jump nnn => Sys2Proof.Machine.execJump nnn s
  | .call nnn => Sys2Proof.Machine.execCall nnn s
  | .se x kk => Sys2Proof.Machine.execSe x kk s
  | .sne x kk => Sys2Proof.Machine.execSne x kk s
  | .ser x y => Sys2Proof.Machine.execSer x y s
  | .ld x kk => Sys2Proof.Machine.execLd x kk s
  | .add x kk => Sys2Proof.Machine.execAdd x kk s
  | .ldr x y => Sys2Proof.Machine.execLdr x y s
  | .or x y => Sys2Proof.Machine.execOr x y s
  | .and x y => Sys2Proof.Machine.execAnd x y s
  | .xor x y => Sys2Proof.Machine.execXor x y s
  | .addr x y => Sys2Proof.Machine.execAddr x y s
  | .subr x y => Sys2Proof.Machine.execSubr x y s
  | .shr x => Sys2Proof.Machine.execShr x s
  | .subnr x y => Sys2Proof.Machine.execSubnr x y s
  | .shl x => Sys2Proof.Machine.execShl x s
  | .sner x y => Sys2Proof.Machine.execSner x y s
  | .ldi nnn => Sys2Proof.Machine.execLdi nnn s
  | .jumpv0 nnn => Sys2Proof.Machine.execJumpv0 nnn s
  | .rnd x kk => Sys2Proof.Machine.execRnd x kk s
  | .drw x y n => Sys2Proof.Machine.execDrw x y n s
  | .skp x => Sys2Proof.Machine.execSkp x s
  | .sknp x => Sys2Proof.Machine.execSknp x s
  | .ldvdt x => Sys2Proof.Machine.execLdvdt x s
  | .ldk x => Sys2Proof.Machine.execLdk x s
  | .lddtv x => Sys2Proof.Machine.execLddtv x s
  | .ldstv x => Sys2Proof.Machine.execLdstv x s
  | .addi x => Sys2Proof.Machine.execAddi x s
  | .ldfont x => Sys2Proof.Machine.execLdfont x s
  | .ldbcd x => Sys2Proof.Machine.execLdbcd x s
  | .starr x => Sys2Proof.Machine.execStarr x s
  | .ldarr x => Sys2Proof.Machine.execLdarr x s

end Sys2Proof.Machine
end

