-- ==== Sys2Proof/Machine/Cycle.lean ====
section
/-! DEFINITION. The cycle (spec/40_cycle.md R80 to R91) and the host's other inputs at a cycle boundary
(spec/60_exceptions.md section 8). -/

namespace Sys2Proof.Machine

/-- The input that drove a step has been taken. -/
def thenEndEvent : Answer → Answer
  | .next t => .next t.endEvent
  | .fault f => .fault f
  | .refused r => .refused r

/-- Decode, tick, execute (R81 sub-steps 3 to 5), for the opcode fetched at `pc0`, in the state fetch left. -/
def dispatch (pc0 : Word) (op : Word) (s : State) : Answer :=
  match decode op with
  | .known i => exec i s.tick
  | .unknown w => done (takeFault .unknownOpcode pc0 (some w) s.tick)

/-- One whole cycle of a running machine (R81); a fetch out of range is taken before the tick (R83, R85). -/
def runCycle (s : State) : Answer :=
  match fetch s with
  | .error f => done (takeFault f s.pc none s)
  | .ok (op, t) => dispatch s.pc op t

/-- A scheduled cycle: only a RUNNING machine performs it (R33, R80, R81 sub-step 0). -/
def scheduleCycle (s : State) : Answer :=
  match s.status with
  | .running => runCycle s
  | _ => done s

/-- The host's reset: a ROM image that does not fit is refused, the machine does not start (R57, R190; log 17). -/
def hostReset (s : State) (rom : List Byte) : Answer :=
  match s.restart rom with
  | .ok t => done t
  | .error _ => .refused (.romTooLong rom.length)

/-- What the host's next input does to the machine (60_exceptions.md section 8). -/
def hostInput (s : State) : Answer :=
  match s.nextEvent with
  | .cycle _ _ => scheduleCycle s
  | .quit => done s.quit
  | .renderAck => done s.ackRender
  | .reset rom => hostReset s rom

/-- One host input, taken. -/
def takeInput (s : State) : Answer := thenEndEvent (hostInput s)

end Sys2Proof.Machine
end

