-- ==== Sys2Proof/Machine/Step.lean ====
section
/-! DEFINITION. The step, and placing an instruction where the step fetches its next one. -/

namespace Sys2Proof.Machine

/-- One step: the host's next input. With an empty queue, or a cycle at its head, this is one cycle, the machine's only
kind of step (spec/40_cycle.md R80); the other inputs act at the boundary (spec/10_state.md R36; log 13). -/
def step (s : State) : Host.Outcome State Fault Refusal := takeInput s

/-- The state with the instruction of a table word stored at `PC` and the next step made a cycle (log 18). -/
def State.withFetchWord (s : State) (nbits w : Nat) : State :=
  match tableWord nbits w with
  | some op => s.readyToRun.placeOpcode op
  | none => s

end Sys2Proof.Machine
end

