-- ==== Sys2Proof/Safety.lean ====
section
/-! DEFINITION. The terms claims use: what a step leaves unchanged, what a halt shows, which states a run can be in, and
what counts as a good end. -/

namespace Sys2Proof.Machine

/-- A piece of state that can change on its own: a register, a byte of memory, or another element of
spec/10_state.md. The last two are the model's own. -/
inductive Part where
  | reg (r : Reg)
  | index
  | pc
  | stack
  | delayTimer
  | soundTimer
  | byte (a : Nat)
  | display
  | changed
  | status
  | fault
  | host
  | taken
  deriving DecidableEq, Repr

/-- A part reads the same in both states. -/
def Part.same (s t : State) : Part → Prop
  | .reg r => t.reg r = s.reg r
  | .index => t.i = s.i
  | .pc => t.pc = s.pc
  | .stack => t.stack = s.stack
  | .delayTimer => t.dt = s.dt
  | .soundTimer => t.st = s.st
  | .byte a => t.mem.read a = s.mem.read a
  | .display => t.fb = s.fb
  | .changed => t.changed = s.changed
  | .status => t.status = s.status
  | .fault => t.fault = s.fault
  | .host => t.host = s.host
  | .taken => t.taken = s.taken

/-- Everything but the parts listed is unchanged from `s` to `t`: every other register, every other byte of memory,
every other element of the state (spec/40_cycle.md R88). -/
def ChangesOnly (parts : List Part) (s t : State) : Prop := ∀ p : Part, p ∉ parts → p.same s t

/-- The parts for `n` bytes of memory at ascending addresses from `a`. -/
def bytesAt (a n : Nat) : List Part := (List.range n).map fun k => .byte (a + k)

/-- The parts for registers `V0..Vx`. -/
def regsThrough (x : Reg) : List Part := ((List.finRange 16).filter (· ≤ x)).map .reg

/-- The machine has halted on a fault with this record (spec/60_exceptions.md R160). -/
def HaltedWith (r : FaultRecord) (t : State) : Prop := t.status = .halted ∧ t.fault = some r

/-- The machine has halted on a fault of this kind (R160, R161). -/
def HaltedBy (k : FaultKind) (t : State) : Prop := t.status = .halted ∧ ∃ r, t.fault = some r ∧ r.kind = k

/-- The machine has halted on a memory fault at this address (R162). -/
def HaltedAt (a : Word) (t : State) : Prop :=
  t.status = .halted ∧ ∃ r, t.fault = some r ∧ r.kind = .memOutOfRange ∧ r.addr = some a

/-- No fault was taken from `s` to `t`: status and fault record are as they were. -/
def NoFault (s t : State) : Prop := t.status = s.status ∧ t.fault = s.fault

/-- The first address at or above `a` that is outside memory (R162). -/
def firstBadAddr (a : Nat) : Word := BitVec.ofNat 16 (max a Config.memSize)

/-- The record of a memory fault of the instruction with opcode `op` in post-fetch state `s`, accessing bytes from `a`. -/
def memFaultRecord (s : State) (op : Word) (a : Nat) : FaultRecord :=
  { kind := .memOutOfRange, pc := s.ownAddress, opcode := some op, addr := some (firstBadAddr a) }

/-- The record of another fault of the instruction with opcode `op` in post-fetch state `s`. -/
def faultRecord (s : State) (op : Word) (kind : FaultKind) : FaultRecord :=
  { kind := kind, pc := s.ownAddress, opcode := some op, addr := none }

/-- A state a claim may call an end. HALTED is never the end of a successful run (spec/60_exceptions.md R170). That STOPPED
is one, and RUNNING where a claim names a point of the run, the spec leaves to the model (spec/40_cycle.md R89, decision
D21): DESIGN CHOICE, log 28. -/
def State.goodEnd (s : State) : Prop := s.status ≠ .halted

/-- The next input schedules a cycle. -/
def State.cycleNext (s : State) : Prop := s.nextEvent.isCycle = true

/-- The next step is a cycle that executes `i`: the machine is RUNNING, the host schedules a cycle, and the opcode at `PC`
decodes to `i`. -/
def State.runsNext (s : State) (i : Instr) : Prop :=
  s.status = .running ∧ s.cycleNext ∧ ∃ (op : Word) (t : State), fetch s = .ok (op, t) ∧ decode op = .known i

/-- A run of `n` cycles from one state to another in which no cycle faults and every instruction executed meets `p`. The
host may acknowledge renders between the cycles (spec/60_exceptions.md R178), which are no cycles; it neither quits nor
resets. -/
inductive Cycles (p : Instr → Prop) : Nat → State → State → Prop where
  | start (s : State) : Cycles p 0 s s
  | cycle {n : Nat} {s t u : State} (i : Instr) : Cycles p n s t → t.runsNext i → p i → step t = .next u →
      u.status = .running → Cycles p (n + 1) s u
  | ack {n : Nat} {s t u : State} : Cycles p n s t → t.nextEvent = .renderAck → step t = .next u → Cycles p n s u

/-- What address `c` reads as once the bytes `bs` have been stored at ascending addresses from `a` over memory `m`. -/
def overlaid (m : Memory) (a : Nat) (bs : List Byte) (c : Nat) : Byte :=
  if a ≤ c ∧ c < a + bs.length then bs.getD (c - a) 0 else m.read c

/-- The invariant of the machine: memory in canonical form, at most 16 return addresses (R25), a fault record exactly
in HALTED (R33, R34), and, while the state is specified, `PC` at most 0x10FE and every return address at most 0x1000
(R24). -/
structure State.Inv (s : State) : Prop where
  mem_wf : s.mem.wf = true
  depth_le : s.stack.length ≤ Config.stackCapacity
  fault_iff : s.fault.isSome = true ↔ s.status = .halted
  pc_le : s.goodEnd → s.pc.toNat ≤ 0x10FE
  return_le : s.goodEnd → ∀ w ∈ s.stack, w.toNat ≤ 0x1000

/-- The sprite bit that DRW puts on the pixel at row `r`, column `c`, in closed form (spec/44_display.md R140, R142):
the pixel lies `dr` rows below and `dc` columns right of the start, counted around the edges, and is covered when
`dr < n` and `dc < 8`. -/
def spriteOnPixel (s : State) (x0 y0 n : Nat) (r : Fin 32) (c : Fin 64) : Bool :=
  let dr := (r.val + (32 - y0 % 32)) % 32
  let dc := (c.val + (64 - x0 % 64)) % 64
  decide (dr < n) && decide (dc < 8) && (s.mem.read (s.i.toNat + dr)).getLsbD (7 - dc)

end Sys2Proof.Machine

namespace Sys2Proof

open Machine

/-- Instructions that read the key snapshot (spec/10_state.md R31). -/
def Instr.readsKeys : Instr → Bool
  | .skp _ | .sknp _ | .ldk _ => true
  | .cls | .ret | .jump _ | .call _ | .se _ _ | .sne _ _ | .ser _ _ | .ld _ _ | .add _ _ | .ldr _ _ | .or _ _
  | .and _ _ | .xor _ _ | .addr _ _ | .subr _ _ | .shr _ | .subnr _ _ | .shl _ | .sner _ _ | .ldi _ | .jumpv0 _
  | .rnd _ _ | .drw _ _ _ | .ldvdt _ | .lddtv _ | .ldstv _ | .addi _ | .ldfont _ | .ldbcd _ | .starr _
  | .ldarr _ => false

/-- Instructions that read the random byte (R32). -/
def Instr.readsRandom : Instr → Bool
  | .rnd _ _ => true
  | .cls | .ret | .jump _ | .call _ | .se _ _ | .sne _ _ | .ser _ _ | .ld _ _ | .add _ _ | .ldr _ _ | .or _ _
  | .and _ _ | .xor _ _ | .addr _ _ | .subr _ _ | .shr _ | .subnr _ _ | .shl _ | .sner _ _ | .ldi _ | .jumpv0 _
  | .drw _ _ _ | .skp _ | .sknp _ | .ldvdt _ | .ldk _ | .lddtv _ | .ldstv _ | .addi _ | .ldfont _ | .ldbcd _
  | .starr _ | .ldarr _ => false

/-- Instructions that write `VF` as a side effect (R21). -/
def Instr.writesFlag : Instr → Bool
  | .add _ _ | .addr _ _ | .subr _ _ | .shr _ | .subnr _ _ | .shl _ | .drw _ _ _ => true
  | .cls | .ret | .jump _ | .call _ | .se _ _ | .sne _ _ | .ser _ _ | .ld _ _ | .ldr _ _ | .or _ _ | .and _ _
  | .xor _ _ | .sner _ _ | .ldi _ | .jumpv0 _ | .rnd _ _ | .skp _ | .sknp _ | .ldvdt _ | .ldk _ | .lddtv _
  | .ldstv _ | .addi _ | .ldfont _ | .ldbcd _ | .starr _ | .ldarr _ => false

/-- Instructions that name register `r` as explicit destination: `Vx` of the loads and of the bitwise and arithmetic
instructions, LDK, LDVDT, RND, and `V0..Vx` of LDARR. -/
def Instr.namesDest (r : Reg) : Instr → Bool
  | .ld x _ | .add x _ | .rnd x _ | .ldr x _ | .or x _ | .and x _ | .xor x _ | .addr x _ | .subr x _ | .subnr x _ => x == r
  | .shr x | .shl x | .ldvdt x | .ldk x => x == r
  | .ldarr x => decide (r ≤ x)
  | .cls | .ret | .jump _ | .call _ | .se _ _ | .sne _ _ | .ser _ _ | .sner _ _ | .ldi _ | .jumpv0 _
  | .drw _ _ _ | .skp _ | .sknp _ | .lddtv _ | .ldstv _ | .addi _ | .ldfont _ | .ldbcd _ | .starr _ => false

/-- The fault kinds an instruction can raise (spec/60_exceptions.md R161, R169). -/
def Instr.canRaise : Instr → List FaultKind
  | .ret => [.stackUnderflow]
  | .call _ => [.stackOverflow]
  | .skp _ | .sknp _ | .ldfont _ => [.operandRange]
  | .drw _ _ _ | .ldbcd _ | .starr _ | .ldarr _ => [.memOutOfRange]
  | .cls | .jump _ | .se _ _ | .sne _ _ | .ser _ _ | .ld _ _ | .add _ _ | .ldr _ _ | .or _ _ | .and _ _
  | .xor _ _ | .addr _ _ | .subr _ _ | .shr _ | .subnr _ _ | .shl _ | .sner _ _ | .ldi _ | .jumpv0 _ | .rnd _ _
  | .ldvdt _ | .ldk _ | .lddtv _ | .ldstv _ | .addi _ => []

end Sys2Proof
end

