-- ==== Sys2Proof/Certificates/Slice0/Obligations.lean ====
section
/-! DEFINITION. The statements for the provers. Each docstring names the rule of spec/ that the statement formalises, or
the decision of the spec or of the model it rests on. In every statement about `exec`, `s` is the state as fetch and tick
left it (spec/40_cycle.md R86): `s.pc` is the post-fetch PC. -/

open Sys2Proof Sys2Proof.Machine

/-! ## Memory -/

/-- R42, R43: a read or write below 4096 is of that byte and of no other, at 4096 or above it raises MemOutOfRange with
that address. -/
def Obligations.MemoryAccessIsChecked : Prop :=
  ∀ (m : Memory) (a : Nat) (b : Byte),
    (a < 4096 → memRead m a = .ok (m.read a)) ∧
    (4096 ≤ a → memRead m a = .error (.memOutOfRange a) ∧ memWrite m a b = .error (.memOutOfRange a)) ∧
    (a < 4096 → m.wf = true →
      ∃ m' : Memory, memWrite m a b = .ok m' ∧ m'.read a = b ∧ ∀ c, c ≠ a → m'.read c = m.read c)

/-- The model's own form of `MEM` (R28): two canonical memories that read the same everywhere are the same data. -/
def Obligations.CanonicalMemoriesAreEqual : Prop :=
  ∀ m m' : Memory, m.wf = true → m'.wf = true → (∀ a, m.read a = m'.read a) → m = m'

/-! ## Fetch and the cycle -/

/-- The fetch unit (40_cycle.md section 2, 20_memory.md section 4): the opcode is the byte at `PC` times 256 plus the byte
at `PC + 1`, `PC` moves on by 2 and nothing else changes; from `PC = 0xFFF` on, a running machine's cycle halts with
MemOutOfRange, no opcode, and the first address outside memory (the spec's decision D23 says which; log 20). -/
def Obligations.FetchUnit : Prop :=
  ∀ s : State,
    (s.pc.toNat ≤ 0xFFE → ∃ (op : Word) (t : State), fetch s = .ok (op, t) ∧
      op.toNat = (s.mem.read s.pc.toNat).toNat * 256 + (s.mem.read (s.pc.toNat + 1)).toNat ∧
      t.pc.toNat = s.pc.toNat + 2 ∧ ChangesOnly [.pc] s t) ∧
    (0xFFF ≤ s.pc.toNat → s.status = .running → s.cycleNext → ∃ t : State, step s = .next t ∧
      HaltedWith { kind := .memOutOfRange, pc := s.pc, opcode := none,
                   addr := some (if s.pc = 0xFFF then 0x1000 else s.pc) } t)

/-- 60_exceptions.md section 1, with the record of decision D10 (log 12): a fetched opcode that decodes to Unknown halts
the machine at dispatch, with the instruction's own address and the offending opcode; and no cycle halts so without
having fetched such an opcode. -/
def Obligations.UnknownOpcodeHalts : Prop :=
  (∀ (s t : State) (op : Word), s.status = .running → s.cycleNext → fetch s = .ok (op, t) → decode op = .unknown op →
    ∃ u : State, step s = .next u ∧
      HaltedWith { kind := .unknownOpcode, pc := s.pc, opcode := some op, addr := none } u) ∧
  ∀ s u : State, s.status = .running → s.cycleNext → step s = .next u → HaltedBy .unknownOpcode u →
    ∃ (op : Word) (t : State), fetch s = .ok (op, t) ∧ decode op = .unknown op

/-- The cycle (40_cycle.md sections 1 and 3): in a running machine whose next input is a cycle, when the two bytes at
`PC` decode to `i`, the step is `exec i` on the state with `PC` two further and both timers ticked; around it the step
only takes the host's input (the model's own fields). That both timers tick, once, before the instruction, and in key-wait
and faulting cycles too, is the spec's resolutions C2 and C3 and its decision D20 (log 19). -/
def Obligations.StepRunsDecodedInstruction : Prop :=
  ∀ (s : State) (i : Instr), s.status = .running → s.cycleNext → s.pc.toNat ≤ 0xFFE →
    decode (opcodeOfBytes (s.mem.read s.pc.toNat) (s.mem.read (s.pc.toNat + 1))) = .known i →
    step s = match exec i (s.setPc (s.pc + 2)).tick with
      | .next t => .next { t with host := t.host.tail, taken := t.taken + 1 }
      | .fault f => .fault f
      | .refused r => .refused r

/-- Every meaning answers a next state, and so does every step, but for a host reset with a ROM image over 3584 bytes,
which is refused (20_memory.md section 6, decision D18; log 17): no step ends in a fault outcome (log 11). -/
def Obligations.EveryStepAnswers : Prop :=
  (∀ (i : Instr) (s : State), ∃ t : State, exec i s = .next t) ∧
  ∀ s : State, (∃ t : State, step s = .next t) ∨
    ∃ rom : List Byte, s.nextEvent = .reset rom ∧ 3584 < rom.length ∧ step s = .refused (.romTooLong rom.length)

/-! ## Faults -/

/-- 60_exceptions.md sections 1 and 3 with the record of decision D10 (log 12): a cycle that halts in executing `i`
raises one of the kinds the spec gives `i`, and records the instruction's own address, the opcode as fetched, and an
address for MemOutOfRange only. -/
def Obligations.FaultRecordNamesInstruction : Prop :=
  ∀ (s t u : State) (op : Word) (i : Instr), s.status = .running → s.cycleNext → fetch s = .ok (op, t) →
    decode op = .known i → step s = .next u → u.status = .halted →
    ∃ k ∈ i.canRaise, ∃ a : Option Word,
      u.fault = some { kind := k, pc := s.pc, opcode := some op, addr := a } ∧
      (a.isSome = true ↔ k = .memOutOfRange)

/-- 60_exceptions.md section 1 with decisions D10 and D17 (log 12, 20): DRW, LDARR, STARR and LDBCD halt exactly at the
first address outside memory that they would touch, and record it. -/
def Obligations.MemoryFaultAddress : Prop :=
  ∀ (s : State) (x y : Reg) (n : Fin 16),
    (n ≠ 0 → 4096 < s.i.toNat + n.val → ∃ t : State, exec (.drw x y n) s = .next t ∧
      HaltedWith (memFaultRecord s (encode (.drw x y n)) s.i.toNat) t) ∧
    (4096 ≤ s.i.toNat + x.val → ∃ t : State, exec (.ldarr x) s = .next t ∧
      HaltedWith (memFaultRecord s (encode (.ldarr x)) s.i.toNat) t) ∧
    (4096 ≤ s.i.toNat + x.val → ∃ t : State, exec (.starr x) s = .next t ∧
      HaltedWith (memFaultRecord s (encode (.starr x)) s.i.toNat) t) ∧
    (4096 ≤ s.i.toNat + 2 → ∃ t : State, exec (.ldbcd x) s = .next t ∧
      HaltedWith (memFaultRecord s (encode (.ldbcd x)) s.i.toNat) t)

/-- 40_cycle.md section 4 and 10_state.md section 6, decision D9 (log 11): a run ends in exactly two ways. A running
machine becomes STOPPED only by a quit and HALTED only in a cycle, with a fault record; a machine that is not running
leaves its status only by a reset. -/
def Obligations.RunEndsOnlyByFaultOrQuit : Prop :=
  ∀ s t : State, step s = .next t →
    (s.status = .running → t.status = .stopped → s.nextEvent = .quit) ∧
    (s.status = .running → t.status = .halted → s.cycleNext ∧ ∃ r, t.fault = some r) ∧
    (s.status ≠ .running → t.status ≠ s.status → ∃ rom, s.nextEvent = .reset rom)

/-- 10_state.md section 6, decision D9 (log 11): a machine that is not running performs no cycle and changes no state
when a cycle or a quit comes; only the model's own queue moves on. -/
def Obligations.StoppedMachineKeepsState : Prop :=
  ∀ s : State, s.status ≠ .running → (s.cycleNext ∨ s.nextEvent = .quit) →
    step s = .next { s with host := s.host.tail, taken := s.taken + 1 }

/-- 60_exceptions.md section 3, decision D9 (log 11): HALTED stays, with its fault record, through any number of host
inputs that are not a reset. -/
def Obligations.HaltedUntilReset : Prop :=
  ∀ (n : Nat) (s : State), s.status = .halted → (∀ e ∈ s.host, ∀ rom, e ≠ .reset rom) →
    ∃ t : State, Host.Core.run Sys2Proof.core n s = .next t ∧ t.status = .halted ∧ t.fault = s.fault

/-! ## The host -/

/-- 60_exceptions.md section 2, with decision D11 for the moment (log 15): the quit is seen at the start of the cycle and
sets STOPPED, writes no fault record and changes no other state, wherever `PC` is. -/
def Obligations.QuitStops : Prop :=
  ∀ s : State, s.status = .running → s.nextEvent = .quit →
    ∃ t : State, step s = .next t ∧ t.status = .stopped ∧ ChangesOnly [.status, .host, .taken] s t

/-- 60_exceptions.md section 6, decision D22 (log 16): a render acknowledge clears `changed` and nothing else, in any
status. -/
def Obligations.RenderAckClearsChanged : Prop :=
  ∀ s : State, s.nextEvent = .renderAck →
    ∃ t : State, step s = .next t ∧ t.changed = false ∧ ChangesOnly [.changed, .host, .taken] s t

/-- 70_reset_and_hazards.md section 1 and 20_memory.md section 6, with decisions D1, D9, D15 and D18 (log 1, 2, 17): a
reset from any state, with an image of at most 3584 bytes, leaves `PC` at 0x200, an empty stack, RUNNING, no fault
record, the font at 0, the image at 0x200, and zero everywhere else; a longer image is refused. -/
def Obligations.HostResetRestarts : Prop :=
  ∀ (s : State) (rom : List Byte), s.nextEvent = .reset rom →
    (rom.length ≤ 3584 → ∃ t : State, step s = .next t ∧
      t.pc = 0x200 ∧ t.stack = [] ∧ t.status = .running ∧ t.fault = none ∧
      (∀ r, t.reg r = 0) ∧ t.i = 0 ∧ t.dt = 0 ∧ t.st = 0 ∧ t.changed = false ∧
      (∀ r c, pixel t.fb r c = false) ∧
      ∀ a, a < 4096 → t.mem.read a =
        if a < 80 then Config.font.getD a 0
        else if 0x200 ≤ a ∧ a < 0x200 + rom.length then rom.getD (a - 0x200) 0 else 0) ∧
    (3584 < rom.length → step s = .refused (.romTooLong rom.length))

/-- 70_reset_and_hazards.md section 1: the state after reset with an empty ROM image. `PC`, the empty stack and RUNNING
are the source's; every zero is the spec's decision D1 (log 1, 2), the font bytes its decision D15 (log 2). -/
def Obligations.ResetValues : Prop :=
  State.reset.pc = 0x200 ∧ State.reset.stack = [] ∧ State.reset.status = .running ∧ State.reset.fault = none ∧
  (∀ r, State.reset.reg r = 0) ∧ State.reset.i = 0 ∧ State.reset.dt = 0 ∧ State.reset.st = 0 ∧
  State.reset.changed = false ∧ (∀ r c, pixel State.reset.fb r c = false) ∧
  (∀ a, a < 4096 → State.reset.mem.read a = if a < 80 then Config.font.getD a 0 else 0)

/-! ## Invariant -/

/-- The invariant `State.Inv` holds at reset (10_state.md sections 2 and 6). -/
def Obligations.InvHoldsAtReset : Prop := State.reset.Inv

/-- Every step keeps `State.Inv`: canonical memory, at most 16 return addresses, a fault record exactly in HALTED, and
in a machine that is not HALTED `PC` at most 0x10FE and return addresses at most 0x1000 (10_state.md section 2; the
bound is the spec's own derivation in its rule on `PC`). -/
def Obligations.StepKeepsInv : Prop :=
  ∀ s t : State, s.Inv → step s = .next t → t.Inv

/-! ## Timers -/

/-- 60_exceptions.md section 5: the tick takes 1 from each nonzero timer, leaves a timer at 0 there, and changes nothing
else; the tone is on exactly when `ST > 0`. That the sound timer ticks is the spec's resolution C2 (log 19). That each
cycle ticks once, before the instruction, is `Obligations.StepRunsDecodedInstruction`. -/
def Obligations.TimerUnit : Prop :=
  ∀ s : State,
    (s.tick.dt.toNat = if 0 < s.dt.toNat then s.dt.toNat - 1 else 0) ∧
    (s.tick.st.toNat = if 0 < s.st.toNat then s.st.toNat - 1 else 0) ∧
    ChangesOnly [.delayTimer, .soundTimer] s s.tick ∧
    (s.tone = true ↔ 0 < s.st.toNat)

/-- 45_keypad_timers.md section 2: LDVDT reads `DT` after this cycle's tick, whose place before the instruction is the
spec's resolution C3 (log 19); LDDTV and LDSTV write the register to the timer, and the tone follows the latter at once;
none of them writes a flag or faults; no instruction reads `ST` back. -/
def Obligations.TimerInstructions : Prop :=
  ∀ (s : State) (x : Reg),
    (∃ t : State, exec (.ldvdt x) s.tick = .next t ∧ (t.reg x).toNat = s.dt.toNat - 1 ∧
      (x ≠ Reg.vf → t.reg Reg.vf = s.reg Reg.vf) ∧ NoFault s t) ∧
    (∃ t : State, exec (.ldvdt x) s = .next t ∧ t.reg x = s.dt) ∧
    (∃ t : State, exec (.lddtv x) s = .next t ∧ t.dt = s.reg x ∧ t.reg Reg.vf = s.reg Reg.vf ∧ NoFault s t) ∧
    (∃ t : State, exec (.ldstv x) s = .next t ∧ t.st = s.reg x ∧
      (t.tone = true ↔ 0 < (s.reg x).toNat) ∧ t.reg Reg.vf = s.reg Reg.vf ∧ NoFault s t) ∧
    (∀ (i : Instr) (t : State) (b : Byte), exec i s = .next t →
      ∃ u : State, exec i (s.setSt b) = .next u ∧ u.status = t.status ∧ u.fault = t.fault ∧
        (t.status ≠ .halted → u.setSt t.st = t))

/-- 45_keypad_timers.md section 2 (the spec's derivation), with the place of the tick by its resolutions C2 and C3 and the
ticks of key-wait cycles by its decision D20 (log 19): after a cycle that executes LDDTV with value `v`, and `k` further
cycles none of which executes LDDTV or faults, `DT` is `max(v - k, 0)`, and an LDVDT in the cycle after them, `k + 1` cycles
after the write, reads `max(v - (k + 1), 0)`. In the same way LDSTV for `ST`, and the tone is on exactly while `k < v`. -/
def Obligations.TimerReadLag : Prop :=
  ∀ (s : State) (x : Reg),
    (s.runsNext (.lddtv x) → ∃ t : State, step s = .next t ∧ t.status = .running ∧
      ∀ (k : Nat) (u : State), Cycles (fun i => ∀ z, i ≠ .lddtv z) k t u →
        u.dt.toNat = (s.reg x).toNat - k ∧
        ∀ y, u.runsNext (.ldvdt y) → ∃ w : State, step u = .next w ∧ w.status = .running ∧
          (w.reg y).toNat = (s.reg x).toNat - (k + 1)) ∧
    (s.runsNext (.ldstv x) → ∃ t : State, step s = .next t ∧ t.status = .running ∧
      ∀ (k : Nat) (u : State), Cycles (fun i => ∀ z, i ≠ .ldstv z) k t u →
        u.st.toNat = (s.reg x).toNat - k ∧ (u.tone = true ↔ k < (s.reg x).toNat))

/-! ## Control transfer -/

/-- R100, R163: RET pops the most recent return address into `PC`, as is, and leaves `VF`; on an empty stack it halts
with StackUnderflow. -/
def Obligations.RetReturns : Prop :=
  ∀ s : State,
    (∀ w rest, s.stack = w :: rest → ∃ t : State, exec .ret s = .next t ∧
      t.pc = w ∧ t.stack = rest ∧ t.reg Reg.vf = s.reg Reg.vf ∧ NoFault s t) ∧
    (s.stack = [] → ∃ t : State, exec .ret s = .next t ∧ HaltedBy .stackUnderflow t)

/-- R101: JUMP sets `PC` to the 12-bit address; no flag, no fault in this cycle. -/
def Obligations.JumpSetsPc : Prop :=
  ∀ (s : State) (nnn : Addr), ∃ t : State, exec (.jump nnn) s = .next t ∧
    t.pc.toNat = nnn.toNat ∧ t.reg Reg.vf = s.reg Reg.vf ∧ NoFault s t

/-- R103: JUMPV0 sets `PC` to the address plus `V0`, not reduced modulo 4096; no flag, no fault in this cycle. -/
def Obligations.JumpV0AddsV0 : Prop :=
  ∀ (s : State) (nnn : Addr), ∃ t : State, exec (.jumpv0 nnn) s = .next t ∧
    t.pc.toNat = nnn.toNat + (s.reg 0).toNat ∧ t.reg Reg.vf = s.reg Reg.vf ∧ NoFault s t

/-- 41_control_flow.md section 1, with decision D2 for the full stack (log 8): CALL pushes the post-fetch PC and jumps
while fewer than 16 addresses are on the stack, and a RET then comes back; with 16 on it CALL halts with
StackOverflow. -/
def Obligations.CallPushes : Prop :=
  ∀ (s : State) (nnn : Addr),
    (s.stack.length < 16 → ∃ t u : State, exec (.call nnn) s = .next t ∧
      t.pc.toNat = nnn.toNat ∧ t.stack = s.pc :: s.stack ∧ NoFault s t ∧
      exec .ret t = .next u ∧ u.pc = s.pc ∧ u.stack = s.stack) ∧
    (s.stack.length = 16 → ∃ t : State, exec (.call nnn) s = .next t ∧
      HaltedWith (faultRecord s (encode (.call nnn)) .stackOverflow) t)

/-- R105, R106, R107, R108: each compare-and-skip adds 2 to the post-fetch PC exactly when its condition holds; no flag,
no fault. -/
def Obligations.SkipsOnCompare : Prop :=
  ∀ (s : State) (x y : Reg) (kk : Byte),
    (∃ t : State, exec (.se x kk) s = .next t ∧ t.pc = (if s.reg x = kk then s.pc + 2 else s.pc) ∧
      t.reg Reg.vf = s.reg Reg.vf ∧ NoFault s t) ∧
    (∃ t : State, exec (.sne x kk) s = .next t ∧ t.pc = (if s.reg x ≠ kk then s.pc + 2 else s.pc) ∧
      t.reg Reg.vf = s.reg Reg.vf ∧ NoFault s t) ∧
    (∃ t : State, exec (.ser x y) s = .next t ∧ t.pc = (if s.reg x = s.reg y then s.pc + 2 else s.pc) ∧
      t.reg Reg.vf = s.reg Reg.vf ∧ NoFault s t) ∧
    (∃ t : State, exec (.sner x y) s = .next t ∧ t.pc = (if s.reg x ≠ s.reg y then s.pc + 2 else s.pc) ∧
      t.reg Reg.vf = s.reg Reg.vf ∧ NoFault s t)

/-! ## Register ALU -/

/-- R111: LD loads the immediate; `VF` changes only if it is the destination; no fault. -/
def Obligations.LoadImmediate : Prop :=
  ∀ (s : State) (x : Reg) (kk : Byte), ∃ t : State, exec (.ld x kk) s = .next t ∧
    t.reg x = kk ∧ (x ≠ Reg.vf → t.reg Reg.vf = s.reg Reg.vf) ∧ NoFault s t

/-- R113, R114, R115, R116: LDR copies, OR, AND and XOR combine register x with register y bit by bit; `VF` is not
written unless it is register x; no fault. -/
def Obligations.CopyAndBitwise : Prop :=
  ∀ (s : State) (x y : Reg),
    (∃ t : State, exec (.ldr x y) s = .next t ∧ t.reg x = s.reg y ∧
      (x ≠ Reg.vf → t.reg Reg.vf = s.reg Reg.vf) ∧ NoFault s t) ∧
    (∃ t : State, exec (.or x y) s = .next t ∧
      (∀ k, (t.reg x).getLsbD k = ((s.reg x).getLsbD k || (s.reg y).getLsbD k)) ∧
      (x ≠ Reg.vf → t.reg Reg.vf = s.reg Reg.vf) ∧ NoFault s t) ∧
    (∃ t : State, exec (.and x y) s = .next t ∧
      (∀ k, (t.reg x).getLsbD k = ((s.reg x).getLsbD k && (s.reg y).getLsbD k)) ∧
      (x ≠ Reg.vf → t.reg Reg.vf = s.reg Reg.vf) ∧ NoFault s t) ∧
    (∃ t : State, exec (.xor x y) s = .next t ∧
      (∀ k, (t.reg x).getLsbD k = ((s.reg x).getLsbD k ^^ (s.reg y).getLsbD k)) ∧
      (x ≠ Reg.vf → t.reg Reg.vf = s.reg Reg.vf) ∧ NoFault s t)

/-- 42_alu.md sections 1 to 3, with decision D3 for destination `VF` (log 5): ADD and ADDR leave the sum modulo 256 in
register x and the carry in `VF`; when x is `VF` the carry is what it holds. -/
def Obligations.AddSetsCarry : Prop :=
  ∀ (s : State) (x y : Reg) (kk : Byte),
    (∃ t : State, exec (.add x kk) s = .next t ∧
      (x ≠ Reg.vf → (t.reg x).toNat = ((s.reg x).toNat + kk.toNat) % 256) ∧
      (t.reg Reg.vf).toNat = (if 255 < (s.reg x).toNat + kk.toNat then 1 else 0) ∧ NoFault s t) ∧
    (∃ t : State, exec (.addr x y) s = .next t ∧
      (x ≠ Reg.vf → (t.reg x).toNat = ((s.reg x).toNat + (s.reg y).toNat) % 256) ∧
      (t.reg Reg.vf).toNat = (if 255 < (s.reg x).toNat + (s.reg y).toNat then 1 else 0) ∧ NoFault s t)

/-- 42_alu.md sections 1 and 3, with decision D3 for destination `VF` (log 5): SUBR leaves x - y and SUBNR leaves y - x,
modulo 256, in register x, and in `VF` whether the minuend was strictly greater. -/
def Obligations.SubtractSetsGreater : Prop :=
  ∀ (s : State) (x y : Reg),
    (∃ t : State, exec (.subr x y) s = .next t ∧
      (x ≠ Reg.vf → ((t.reg x).toNat : Int) = ((s.reg x).toNat - (s.reg y).toNat : Int) % 256) ∧
      (t.reg Reg.vf).toNat = (if (s.reg y).toNat < (s.reg x).toNat then 1 else 0) ∧ NoFault s t) ∧
    (∃ t : State, exec (.subnr x y) s = .next t ∧
      (x ≠ Reg.vf → ((t.reg x).toNat : Int) = ((s.reg y).toNat - (s.reg x).toNat : Int) % 256) ∧
      (t.reg Reg.vf).toNat = (if (s.reg x).toNat < (s.reg y).toNat then 1 else 0) ∧ NoFault s t)

/-- 42_alu.md sections 1 and 4, with decision D3 for destination `VF` (log 5): SHR halves register x and puts its old
bit 0 in `VF`; SHL doubles it modulo 256 and puts its old bit 7 in `VF`. -/
def Obligations.ShiftSetsBitOut : Prop :=
  ∀ (s : State) (x : Reg),
    (∃ t : State, exec (.shr x) s = .next t ∧
      (x ≠ Reg.vf → (t.reg x).toNat = (s.reg x).toNat / 2) ∧
      (t.reg Reg.vf).toNat = (if (s.reg x).getLsbD 0 then 1 else 0) ∧ NoFault s t) ∧
    (∃ t : State, exec (.shl x) s = .next t ∧
      (x ≠ Reg.vf → (t.reg x).toNat = (s.reg x).toNat * 2 % 256) ∧
      (t.reg Reg.vf).toNat = (if (s.reg x).getLsbD 7 then 1 else 0) ∧ NoFault s t)

/-- R122: RND leaves the cycle's random byte masked with the immediate, whatever the byte is; the byte is the host's,
and no bit outside the mask is set; no flag, no fault. -/
def Obligations.RandomIsMasked : Prop :=
  ∀ (s : State) (x : Reg) (kk : Byte), ∃ t : State, exec (.rnd x kk) s = .next t ∧
    t.reg x = s.randomNow &&& kk ∧
    (∀ keys rnd rest, s.host = .cycle keys rnd :: rest → t.reg x = rnd &&& kk) ∧
    t.reg x &&& ~~~kk = 0 ∧ (x ≠ Reg.vf → t.reg Reg.vf = s.reg Reg.vf) ∧ NoFault s t

/-! ## Index register and memory -/

/-- R131: LDI loads the 12-bit address, upper bits 0; no flag, no fault. -/
def Obligations.LoadIndex : Prop :=
  ∀ (s : State) (nnn : Addr), ∃ t : State, exec (.ldi nnn) s = .next t ∧
    t.i.toNat = nnn.toNat ∧ t.reg Reg.vf = s.reg Reg.vf ∧ NoFault s t

/-- 43_index_memory.md section 2, with decision D4 for the wrap (log 6): ADDI adds register x to `I` modulo 65536 and
never touches `VF`. -/
def Obligations.AddIndexWraps : Prop :=
  ∀ (s : State) (x : Reg), ∃ t : State, exec (.addi x) s = .next t ∧
    t.i.toNat = (s.i.toNat + (s.reg x).toNat) % 65536 ∧ t.reg Reg.vf = s.reg Reg.vf ∧ NoFault s t

/-- 43_index_memory.md section 2, with decision D6 for values of 16 or more (log 7): LDFONT points `I` at 5 times the
digit, and halts with OperandRange when there is no such digit. -/
def Obligations.FontAddress : Prop :=
  ∀ (s : State) (x : Reg),
    ((s.reg x).toNat < 16 → ∃ t : State, exec (.ldfont x) s = .next t ∧
      t.i.toNat = 5 * (s.reg x).toNat ∧ t.reg Reg.vf = s.reg Reg.vf ∧ NoFault s t) ∧
    (16 ≤ (s.reg x).toNat → ∃ t : State, exec (.ldfont x) s = .next t ∧
      HaltedWith (faultRecord s (encode (.ldfont x)) .operandRange) t)

/-- 43_index_memory.md section 3: LDBCD stores hundreds, tens and ones at `I`, `I + 1`, `I + 2`, and leaves `I`, register x and `VF`; when one of
the three is outside memory it halts at the first such address. The order of
the accesses is decision D17 (log 20), that `I` stays is decision D26 (log 21). -/
def Obligations.BcdDigitsStored : Prop :=
  ∀ (s : State) (x : Reg), s.mem.wf = true →
    (s.i.toNat ≤ 0xFFD → ∃ t : State, exec (.ldbcd x) s = .next t ∧
      (t.mem.read s.i.toNat).toNat = (s.reg x).toNat / 100 ∧
      (t.mem.read (s.i.toNat + 1)).toNat = (s.reg x).toNat / 10 % 10 ∧
      (t.mem.read (s.i.toNat + 2)).toNat = (s.reg x).toNat % 10 ∧
      t.i = s.i ∧ t.reg x = s.reg x ∧ t.reg Reg.vf = s.reg Reg.vf ∧ NoFault s t) ∧
    (0xFFD < s.i.toNat → ∃ t : State, exec (.ldbcd x) s = .next t ∧ HaltedAt (firstBadAddr s.i.toNat) t)

/-- 43_index_memory.md section 3: STARR stores `V0..Vx` at ascending addresses from `I` and leaves `I` and all registers; when an address is
outside memory it halts at the first such. The order of
the accesses is decision D17 (log 20), that `I` stays is decision D26 (log 21). -/
def Obligations.RegistersStored : Prop :=
  ∀ (s : State) (x : Reg), s.mem.wf = true →
    (s.i.toNat + x.val ≤ 0xFFF → ∃ t : State, exec (.starr x) s = .next t ∧
      (∀ k : Reg, k ≤ x → t.mem.read (s.i.toNat + k.val) = s.reg k) ∧
      t.i = s.i ∧ (∀ r : Reg, t.reg r = s.reg r) ∧ NoFault s t) ∧
    (0xFFF < s.i.toNat + x.val → ∃ t : State, exec (.starr x) s = .next t ∧ HaltedAt (firstBadAddr s.i.toNat) t)

/-- 43_index_memory.md section 3: LDARR loads `V0..Vx` from ascending addresses from `I` and leaves `I` and the registers above x; when an address
is outside memory it halts at the first such. The order of
the accesses is decision D17 (log 20), that `I` stays is decision D26 (log 21). -/
def Obligations.RegistersLoaded : Prop :=
  ∀ (s : State) (x : Reg),
    (s.i.toNat + x.val ≤ 0xFFF → ∃ t : State, exec (.ldarr x) s = .next t ∧
      (∀ k : Reg, k ≤ x → t.reg k = s.mem.read (s.i.toNat + k.val)) ∧
      (∀ r : Reg, x < r → t.reg r = s.reg r) ∧ t.i = s.i ∧ NoFault s t) ∧
    (0xFFF < s.i.toNat + x.val → ∃ t : State, exec (.ldarr x) s = .next t ∧ HaltedAt (firstBadAddr s.i.toNat) t)

/-- 95_test_vectors.md S4, 43_index_memory.md section 3: STARR, then LDARR of the same registers after any change to the
registers, restores `V0..Vx`. That STARR leaves `I` is decision D26 (log 21). -/
def Obligations.StoreThenLoadRestores : Prop :=
  ∀ (s : State) (x : Reg) (w : Vector Byte 16), s.mem.wf = true → s.i.toNat + x.val ≤ 0xFFF →
    ∃ t u : State, exec (.starr x) s = .next t ∧ exec (.ldarr x) (t.setRegs w) = .next u ∧
      ∀ k : Reg, u.reg k = if k ≤ x then s.reg k else w[k]

/-- 20_memory.md section 5 (the spec's derivation): after STARR or LDBCD the next fetch, with nothing between, sees the
stored bytes wherever they fall: the opcode is made of what `PC` and `PC + 1` read as with the registers, or the three
digits, laid over memory from `I` on, whether they cover both bytes, one or none. -/
def Obligations.StoreToCodeIsFetched : Prop :=
  ∀ (s : State) (x : Reg), s.mem.wf = true → s.pc.toNat ≤ 0xFFE →
    (s.i.toNat + x.val ≤ 0xFFF → ∃ t u : State, exec (.starr x) s = .next t ∧
      fetch t = .ok (opcodeOfBytes (overlaid s.mem s.i.toNat (((List.finRange 16).take (x.val + 1)).map s.reg) s.pc.toNat)
        (overlaid s.mem s.i.toNat (((List.finRange 16).take (x.val + 1)).map s.reg) (s.pc.toNat + 1)), u)) ∧
    (∀ j k : Reg, k.val = j.val + 1 → k ≤ x → s.pc.toNat = s.i.toNat + j.val → s.i.toNat + x.val ≤ 0xFFF →
      ∃ t u : State, exec (.starr x) s = .next t ∧ fetch t = .ok (opcodeOfBytes (s.reg j) (s.reg k), u)) ∧
    (s.i.toNat ≤ 0xFFD → ∃ t u : State, exec (.ldbcd x) s = .next t ∧
      fetch t = .ok (opcodeOfBytes (overlaid s.mem s.i.toNat (bcdDigits (s.reg x)) s.pc.toNat)
        (overlaid s.mem s.i.toNat (bcdDigits (s.reg x)) (s.pc.toNat + 1)), u))

/-! ## Display -/

/-- R141: CLS clears all 2048 pixels and sets `changed`, whatever they were; `VF` is not written; no fault. -/
def Obligations.ClearScreen : Prop :=
  ∀ s : State, ∃ t : State, exec .cls s = .next t ∧
    (∀ r c, pixel t.fb r c = false) ∧ t.changed = true ∧ t.reg Reg.vf = s.reg Reg.vf ∧ NoFault s t

/-- 44_display.md sections 1 and 2: whenever its rows are inside memory (with `n = 0`, decision D8, whatever `I` is; log
10), DRW XORs onto every pixel of the framebuffer the sprite bit that lies on it, counted around both edges, and onto no
other; `VF` is 1 exactly when a lit pixel lay under a 1 bit; `changed` is set. The two loops of the compositor and this
closed form agree. -/
def Obligations.DrawXorsSprite : Prop :=
  ∀ (s : State) (x y : Reg) (n : Fin 16), (n = 0 ∨ s.i.toNat + n.val ≤ 4096) →
    ∃ t : State, exec (.drw x y n) s = .next t ∧
      (∀ r c, pixel t.fb r c =
        (pixel s.fb r c ^^ spriteOnPixel s (s.reg x).toNat (s.reg y).toNat n.val r c)) ∧
      (t.reg Reg.vf = 0 ∨ t.reg Reg.vf = 1) ∧
      (t.reg Reg.vf = 1 ↔ ∃ r c, pixel s.fb r c = true ∧
        spriteOnPixel s (s.reg x).toNat (s.reg y).toNat n.val r c = true) ∧
      t.changed = true ∧ NoFault s t

/-- 44_display.md section 3 (the spec's derivation): the same DRW twice restores the framebuffer, and the second reports a
collision exactly when some pixel under a 1 bit was 0 before the first. `VF` is not a coordinate, since DRW writes it. That
DRW leaves `I` is decision D26 (log 21), the case `n = 0` decision D8 (log 10). -/
def Obligations.DrawTwiceRestores : Prop :=
  ∀ (s : State) (x y : Reg) (n : Fin 16), x ≠ Reg.vf → y ≠ Reg.vf → (n = 0 ∨ s.i.toNat + n.val ≤ 4096) →
    ∃ t u : State, exec (.drw x y n) s = .next t ∧ exec (.drw x y n) t = .next u ∧ u.fb = s.fb ∧
      (u.reg Reg.vf = 1 ↔ ∃ r c, pixel s.fb r c = false ∧
        spriteOnPixel s (s.reg x).toNat (s.reg y).toNat n.val r c = true)

/-! ## Keypad -/

/-- 45_keypad_timers.md section 1, with decision D5 for values of 16 or more (log 7): SKP skips when key `Vx` of this
cycle's snapshot is pressed, SKNP when it is not; a value that is no key halts with OperandRange. The snapshot is the one
the host supplied. -/
def Obligations.SkipsOnKey : Prop :=
  ∀ (s : State) (x : Reg),
    (∀ keys rnd rest, s.host = .cycle keys rnd :: rest → s.keysNow = keys) ∧
    (∀ k : Fin 16, (s.reg x).toNat = k.val →
      (∃ t : State, exec (.skp x) s = .next t ∧ t.pc = (if s.keysNow[k] = true then s.pc + 2 else s.pc) ∧
        t.reg Reg.vf = s.reg Reg.vf ∧ NoFault s t) ∧
      (∃ t : State, exec (.sknp x) s = .next t ∧ t.pc = (if s.keysNow[k] = true then s.pc else s.pc + 2) ∧
        t.reg Reg.vf = s.reg Reg.vf ∧ NoFault s t)) ∧
    (16 ≤ (s.reg x).toNat →
      (∃ t : State, exec (.skp x) s = .next t ∧ HaltedWith (faultRecord s (encode (.skp x)) .operandRange) t) ∧
      (∃ t : State, exec (.sknp x) s = .next t ∧ HaltedWith (faultRecord s (encode (.sknp x)) .operandRange) t))

/-- 45_keypad_timers.md section 1, with decision D7 for several keys (log 9): LDK takes the least pressed key of this
cycle's snapshot; with none pressed, `PC` goes back by 2 and register x stays. -/
def Obligations.KeyWait : Prop :=
  ∀ (s : State) (x : Reg),
    (∀ k : Fin 16, s.keysNow[k] = true → (∀ j : Fin 16, j < k → s.keysNow[j] = false) →
      ∃ t : State, exec (.ldk x) s = .next t ∧ (t.reg x).toNat = k.val ∧ t.pc = s.pc ∧
        (x ≠ Reg.vf → t.reg Reg.vf = s.reg Reg.vf) ∧ NoFault s t) ∧
    ((∀ k : Fin 16, s.keysNow[k] = false) →
      ∃ t : State, exec (.ldk x) s = .next t ∧ t.pc = s.pc - 2 ∧ (∀ r, t.reg r = s.reg r) ∧ NoFault s t)

/-! ## Encoding -/

/-- R61: the fields cut the opcode at fixed places, and overlap as the rule says: `kk` is `y` and `n`, `nnn` is `x` and
`kk`. -/
def Obligations.OpcodeFields : Prop :=
  ∀ op : Word,
    op.toNat = fieldG op * 4096 + (fieldX op).val * 256 + (fieldY op).val * 16 + (fieldN op).val ∧
    fieldG op < 16 ∧
    (fieldKK op).toNat = (fieldY op).val * 16 + (fieldN op).val ∧
    (fieldNNN op).toNat = (fieldX op).val * 256 + (fieldKK op).toNat

/-- Decoding the encoded word of an instruction gives it back, for every instruction and every operand (30_encoding.md
sections 1 and 2; the opcode values are those the spec supplies by decision D16; log 3). -/
def Obligations.DecodeUndoesEncode : Prop :=
  ∀ i : Instr, decode (encode i) = .known i

/-- Encoding the decoded instruction gives the opcode back, for every opcode whose ignored bits are 0 (30_encoding.md
section 3, decisions D12 and D16; log 3, 4). -/
def Obligations.EncodeUndoesDecode : Prop :=
  ∀ (op : Word) (i : Instr), decode op = .known i → canonicalOpcode op = true → encode i = op

/-- 30_encoding.md sections 3 and 6 (the spec's derivation, decision D16; log 3): an opcode decodes to a known instruction
exactly when a row of the opcode map selects it, the row that selects it is the decoded instruction's own, and no two rows
select the same opcode. -/
def Obligations.DecoderMatchesTable : Prop :=
  (∀ op : Word, (∃ i : Instr, decode op = .known i) ↔ ∃ row ∈ opcodeRows, row.selects op = true) ∧
  (∀ (op : Word) (i : Instr), decode op = .known i → tableRow i ∈ opcodeRows ∧ (tableRow i).selects op = true) ∧
  (∀ op : Word, ∀ row ∈ opcodeRows, ∀ row' ∈ opcodeRows,
    row.selects op = true → row'.selects op = true → row = row')

/-- R65: in group 0 only 0x00E0 and 0x00EE are known, CLS and RET; all else is Unknown. -/
def Obligations.GroupZero : Prop :=
  decode 0x00E0 = .known .cls ∧ decode 0x00EE = .known .ret ∧
  ∀ op : Word, op.toNat < 0x1000 → op ≠ 0x00E0 → op ≠ 0x00EE → decode op = .unknown op

/-- 30_encoding.md section 3: exactly four sets are Unknown, Unknown carries the opcode itself, and dispatching it is the
fault. That no opcode of groups 5 and 9 is Unknown, whatever its low nibble, nor one of the shifts, whatever its field `y`,
is decision D12 (log 4). -/
def Obligations.UnknownOpcodes : Prop :=
  ∀ op : Word,
    (∀ w, decode op = .unknown w → w = op) ∧
    (decode op = .unknown op → ∀ (pc0 : Word) (s : State), ∃ t : State, dispatch pc0 op s = .next t ∧
      HaltedBy .unknownOpcode t) ∧
    (decode op = .unknown op ↔
      (fieldG op = 0 ∧ op ≠ 0x00E0 ∧ op ≠ 0x00EE) ∨
      (fieldG op = 8 ∧ (fieldN op).val ∈ [0x8, 0x9, 0xA, 0xB, 0xC, 0xD, 0xF]) ∨
      (fieldG op = 0xE ∧ (fieldKK op).toNat ∉ [0x9E, 0xA1]) ∨
      (fieldG op = 0xF ∧ (fieldKK op).toNat ∉ [0x07, 0x0A, 0x15, 0x18, 0x1E, 0x29, 0x33, 0x55, 0x65]))

/-- 30_encoding.md section 3, decision D12 (log 4): the low nibble of groups 5 and 9 and the field `y` of the shifts are
ignored. -/
def Obligations.IgnoredBitsAreIgnored : Prop :=
  ∀ (x y : Reg) (n : Fin 16),
    decode (wordXYN 0x5 x y n) = .known (.ser x y) ∧ decode (wordXYN 0x9 x y n) = .known (.sner x y) ∧
    decode (wordXYN 0x8 x y 0x6) = .known (.shr x) ∧ decode (wordXYN 0x8 x y 0xE) = .known (.shl x)

/-- A few words of 95_test_vectors.md section 2.1, one of each family, decode to the instructions they stand for (opcode
values by decision D16; log 3). -/
def Obligations.WrittenWordsDecode : Prop :=
  decode 0x1ABC = .known (.jump 0xABC) ∧ decode 0x512F = .known (.ser 1 2) ∧ decode 0x7003 = .known (.add 0 3) ∧
  decode 0x8AB7 = .known (.subnr 0xA 0xB) ∧ decode 0xA123 = .known (.ldi 0x123) ∧
  decode 0xD125 = .known (.drw 1 2 5) ∧ decode 0xE1A1 = .known (.sknp 1) ∧ decode 0xF118 = .known (.ldstv 1) ∧
  decode 0xF165 = .known (.ldarr 1) ∧ decode 0x8AB8 = .unknown 0x8AB8

/-! ## Whole-machine rules and frames -/

/-- 10_state.md section 1 and 40_cycle.md section 3, decision D26 (log 21): over all instructions that do not fault, a
register changes only where the instruction names it as destination, or where it is `VF` and the instruction is one of
the seven that write it; those leave 0 or 1 there. -/
def Obligations.OnlyNamedRegistersChange : Prop :=
  ∀ (i : Instr) (s t : State), exec i s = .next t → t.status ≠ .halted →
    (i.writesFlag = true → t.reg Reg.vf = 0 ∨ t.reg Reg.vf = 1) ∧
    (∀ r, i.namesDest r = false → ¬(r = Reg.vf ∧ i.writesFlag = true) → t.reg r = s.reg r)

/-- Frame of the register ALU and LDVDT (40_cycle.md section 3, decision D26; log 21): nothing but the destination, and
`VF` for the flag writers; every byte of memory included. -/
def Obligations.FrameRegisterWriters : Prop :=
  ∀ (s t : State) (x y : Reg) (kk : Byte) (i : Instr), exec i s = .next t →
    (i ∈ [.ld x kk, .ldr x y, .or x y, .and x y, .xor x y, .rnd x kk, .ldvdt x] → ChangesOnly [.reg x] s t) ∧
    (i ∈ [.add x kk, .addr x y, .subr x y, .subnr x y, .shr x, .shl x] → ChangesOnly [.reg x, .reg Reg.vf] s t)

/-- Frame of control transfer (40_cycle.md section 3, decision D26; log 21): nothing but `PC`; CALL and RET also the
stack, when they do not fault. -/
def Obligations.FrameControl : Prop :=
  ∀ (s t : State) (x y : Reg) (kk : Byte) (nnn : Addr) (i : Instr), exec i s = .next t →
    (i ∈ [.jump nnn, .jumpv0 nnn, .se x kk, .sne x kk, .ser x y, .sner x y] → ChangesOnly [.pc] s t) ∧
    (i = .call nnn → s.stack.length < 16 → ChangesOnly [.pc, .stack] s t) ∧
    (i = .ret → s.stack ≠ [] → ChangesOnly [.pc, .stack] s t)

/-- Frame of the index and timer instructions (40_cycle.md section 3, decision D26; log 21): nothing but `I`, or the timer
written. -/
def Obligations.FrameIndexAndTimers : Prop :=
  ∀ (s t : State) (x : Reg) (nnn : Addr) (i : Instr), exec i s = .next t →
    (i ∈ [.ldi nnn, .addi x] → ChangesOnly [.index] s t) ∧
    (i = .ldfont x → (s.reg x).toNat < 16 → ChangesOnly [.index] s t) ∧
    (i = .lddtv x → ChangesOnly [.delayTimer] s t) ∧
    (i = .ldstv x → ChangesOnly [.soundTimer] s t)

/-- Frame of the memory instructions (40_cycle.md section 3, decision D26; log 21): LDBCD changes the three bytes from
`I`, STARR the x + 1 bytes from `I`, LDARR the registers `V0..Vx`, and nothing else, when they do not fault. -/
def Obligations.FrameMemory : Prop :=
  ∀ (s t : State) (x : Reg) (i : Instr), s.mem.wf = true → exec i s = .next t →
    (i = .ldbcd x → s.i.toNat ≤ 0xFFD → ChangesOnly (bytesAt s.baseAddr 3) s t) ∧
    (i = .starr x → s.i.toNat + x.val ≤ 0xFFF → ChangesOnly (bytesAt s.baseAddr (x.val + 1)) s t) ∧
    (i = .ldarr x → s.i.toNat + x.val ≤ 0xFFF → ChangesOnly (regsThrough x) s t)

/-- Frame of display and keypad (40_cycle.md section 3, decision D26; log 21): CLS changes the display and `changed`, DRW
also `VF`, SKP and SKNP `PC`, LDK register x or `PC`, and nothing else, when they do not fault. -/
def Obligations.FrameDisplayAndKeypad : Prop :=
  ∀ (s t : State) (x y : Reg) (n : Fin 16) (i : Instr), exec i s = .next t →
    (i = .cls → ChangesOnly [.display, .changed] s t) ∧
    (i = .drw x y n → (n = 0 ∨ s.i.toNat + n.val ≤ 4096) → ChangesOnly [.display, .changed, .reg Reg.vf] s t) ∧
    (i ∈ [.skp x, .sknp x] → (s.reg x).toNat < 16 → ChangesOnly [.pc] s t) ∧
    (i = .ldk x → ChangesOnly [.pc] s t ∨ ChangesOnly [.reg x] s t)

/-- 10_state.md section 5: only SKP, SKNP and LDK depend on the key snapshot, and only RND on the random byte: any other
instruction ends alike under another snapshot or byte, status and fault record always, and all of the next state but the
model's own queue when it does not fault. -/
def Obligations.InputsReadOnlyByTheirInstructions : Prop :=
  ∀ (i : Instr) (s t : State) (keys keys' : Keys) (rnd rnd' : Byte) (rest : List HostEvent),
    exec i { s with host := .cycle keys rnd :: rest } = .next t →
    (i.readsKeys = false → ∃ u : State, exec i { s with host := .cycle keys' rnd :: rest } = .next u ∧
      u.status = t.status ∧ u.fault = t.fault ∧
      (t.status ≠ .halted → u = { t with host := .cycle keys' rnd :: rest })) ∧
    (i.readsRandom = false → ∃ u : State, exec i { s with host := .cycle keys rnd' :: rest } = .next u ∧
      u.status = t.status ∧ u.fault = t.fault ∧
      (t.status ≠ .halted → u = { t with host := .cycle keys rnd' :: rest }))

/-- 10_state.md section 4 (the spec's derivation): `changed` has no influence on any other state: executing from the state
with the other value of the flag ends with the same status and fault record, and when it does not fault in the same
state but for the flag. -/
def Obligations.ChangedHasNoInfluence : Prop :=
  ∀ (i : Instr) (s t : State) (b : Bool), exec i s = .next t →
    ∃ u : State, exec i { s with changed := b } = .next u ∧ u.status = t.status ∧ u.fault = t.fault ∧
      (t.status ≠ .halted → { u with changed := t.changed } = t)
end

