-- ==== Sys2Proof/Laws/Encoding.lean ====
section
/-! SUPPORT. What the masks of the opcode table keep, as arithmetic on the opcode's value, and the value of each encoded
word. -/

namespace Sys2Proof

theorem slice_lt (op : Word) (hi lo : Nat) : slice op hi lo < 2 ^ (hi - lo + 1) :=
  Nat.mod_lt _ (Nat.two_pow_pos _)

/-- A number whose low 12 bits are masked by `2 ^ k - 1` and whose upper bits are kept. -/
theorem and_group_mask (q r k : Nat) (hr : r < 4096) (hk : k ≤ 12) :
    (q * 4096 + r) &&& (0xF * 4096 + (2 ^ k - 1)) = (q &&& 0xF) * 4096 + r % 2 ^ k := by
  have hp : 2 ^ k ≤ 2 ^ 12 := Nat.pow_le_pow_right (by decide) hk
  have e : ∀ a z : Nat, a * 4096 + z = 2 ^ 12 * a + z := fun a z => by omega
  have hr' : r < 2 ^ 12 := by omega
  have hm : r % 2 ^ k < 2 ^ 12 := lt_of_le_of_lt (Nat.mod_le _ _) hr'
  rw [e q r, e 0xF (2 ^ k - 1), e (q &&& 0xF) (r % 2 ^ k)]
  apply Nat.eq_of_testBit_eq
  intro i
  have hs : 2 ^ k - 1 < 2 ^ 12 := by
    have h0 : 0 < 2 ^ k := Nat.two_pow_pos k
    omega
  simp only [Nat.testBit_and, Nat.testBit_two_pow_mul_add _ hr', Nat.testBit_two_pow_mul_add _ hs,
    Nat.testBit_two_pow_mul_add _ hm]
  split
  · simp only [Nat.testBit_two_pow_sub_one, Nat.testBit_mod_two_pow, Bool.and_comm]
  · rfl

/-- What a mask of the opcode table keeps: the group nibble and the low `k` bits. -/
theorem and_mask_toNat (op : Word) (k : Nat) (hk : k ≤ 12) (mask : Word)
    (hm : mask.toNat = 0xF * 4096 + (2 ^ k - 1)) :
    (op &&& mask).toNat = op.toNat / 4096 * 4096 + op.toNat % 4096 % 2 ^ k := by
  have ho := op.isLt
  have e : op.toNat = op.toNat / 4096 * 4096 + op.toNat % 4096 := by omega
  rw [BitVec.toNat_and, hm]
  conv_lhs => rw [e]
  rw [and_group_mask _ _ _ (by omega) hk]
  have hq : op.toNat / 4096 &&& 0xF = op.toNat / 4096 := by
    rw [show (0xF : Nat) = 2 ^ 4 - 1 from rfl, Nat.and_two_pow_sub_one_eq_mod]
    omega
  rw [hq]

theorem and_F000_toNat (op : Word) : (op &&& 0xF000).toNat = op.toNat / 4096 * 4096 := by
  rw [and_mask_toNat op 0 (by decide) 0xF000 rfl]
  omega

theorem and_F00F_toNat (op : Word) : (op &&& 0xF00F).toNat = op.toNat / 4096 * 4096 + op.toNat % 16 := by
  rw [and_mask_toNat op 4 (by decide) 0xF00F rfl]
  omega

theorem and_F0FF_toNat (op : Word) : (op &&& 0xF0FF).toNat = op.toNat / 4096 * 4096 + op.toNat % 256 := by
  rw [and_mask_toNat op 8 (by decide) 0xF0FF rfl]
  omega

theorem wordNNN_toNat (g : Nat) (nnn : Addr) (hg : g < 16) : (wordNNN g nnn).toNat = g * 4096 + nnn.toNat := by
  have h := nnn.isLt
  simp only [wordNNN, BitVec.toNat_ofNat]
  omega

theorem wordXKK_toNat (g : Nat) (x : Reg) (kk : Byte) (hg : g < 16) :
    (wordXKK g x kk).toNat = g * 4096 + x.val * 256 + kk.toNat := by
  have h := kk.isLt
  have hx := x.isLt
  simp only [wordXKK, BitVec.toNat_ofNat]
  omega

theorem wordXYN_toNat (g : Nat) (x y : Reg) (n : Fin 16) (hg : g < 16) :
    (wordXYN g x y n).toNat = g * 4096 + x.val * 256 + y.val * 16 + n.val := by
  have hx := x.isLt
  have hy := y.isLt
  have hn := n.isLt
  simp only [wordXYN, BitVec.toNat_ofNat]
  omega

theorem slice_of_toNat {w : Word} {n hi lo : Nat} (h : w.toNat = n) :
    slice w hi lo = n / 2 ^ lo % 2 ^ (hi - lo + 1) := by
  rw [slice, h]

/-- The fields the decoder reads from a word of format `NNN`. -/
theorem fields_wordNNN (g : Nat) (nnn : Addr) (hg : g < 16) :
    fieldG (wordNNN g nnn) = g ∧ fieldNNN (wordNNN g nnn) = nnn := by
  have h := wordNNN_toNat g nnn hg
  have ha := nnn.isLt
  refine ⟨by rw [fieldG, slice_of_toNat h]; omega, BitVec.eq_of_toNat_eq ?_⟩
  rw [fieldNNN, slice_of_toNat h, BitVec.toNat_ofNat]
  omega

/-- The fields the decoder reads from a word of format `XKK` or `X`. -/
theorem fields_wordXKK (g : Nat) (x : Reg) (kk : Byte) (hg : g < 16) :
    fieldG (wordXKK g x kk) = g ∧ fieldX (wordXKK g x kk) = x ∧ fieldKK (wordXKK g x kk) = kk ∧
      slice (wordXKK g x kk) 7 0 = kk.toNat := by
  have h := wordXKK_toNat g x kk hg
  have hk := kk.isLt
  have hx := x.isLt
  refine ⟨by rw [fieldG, slice_of_toNat h]; omega, Fin.ext ?_, BitVec.eq_of_toNat_eq ?_,
    by rw [slice_of_toNat h]; omega⟩
  · simp only [fieldX]
    rw [slice_of_toNat h]
    omega
  · rw [fieldKK, slice_of_toNat h, BitVec.toNat_ofNat]
    omega

/-- The fields the decoder reads from a word of format `XY` or `XYN`. -/
theorem fields_wordXYN (g : Nat) (x y : Reg) (n : Fin 16) (hg : g < 16) :
    fieldG (wordXYN g x y n) = g ∧ fieldX (wordXYN g x y n) = x ∧ fieldY (wordXYN g x y n) = y ∧
      fieldN (wordXYN g x y n) = n ∧ slice (wordXYN g x y n) 3 0 = n.val := by
  have h := wordXYN_toNat g x y n hg
  have hn := n.isLt
  have hy := y.isLt
  have hx := x.isLt
  refine ⟨by rw [fieldG, slice_of_toNat h]; omega, Fin.ext ?_, Fin.ext ?_, Fin.ext ?_,
    by rw [slice_of_toNat h]; omega⟩
  · simp only [fieldX]
    rw [slice_of_toNat h]
    omega
  · simp only [fieldY]
    rw [slice_of_toNat h]
    omega
  · simp only [fieldN]
    rw [slice_of_toNat h]
    omega

end Sys2Proof
end

