-- ==== Sys2Proof/Laws/Memory.lean ====
section
/-! SUPPORT. Memory: every operation keeps the canonical form, and what reading gives after each. -/

namespace Sys2Proof.Machine

theorem Memory.wfFrom_mono {lo lo' : Nat} (h : lo' ≤ lo) :
    ∀ {m : Memory}, m.wfFrom lo = true → m.wfFrom lo' = true
  | [], _ => rfl
  | (k, b) :: rest, hw => by
    simp only [Memory.wfFrom, Bool.and_eq_true, decide_eq_true_eq] at hw ⊢
    exact ⟨⟨⟨by omega, hw.1.1.2⟩, hw.1.2⟩, hw.2⟩

/-- Below the first cell, a canonical memory reads as its reset contents. -/
theorem Memory.read_below {a lo : Nat} (h : a < lo) :
    ∀ {m : Memory}, m.wfFrom lo = true → m.read a = Memory.resetByte a
  | [], _ => rfl
  | (k, b) :: rest, hw => by
    simp only [Memory.wfFrom, Bool.and_eq_true, decide_eq_true_eq] at hw
    have hk : a ≠ k := by omega
    simpa [Memory.read, hk] using Memory.read_below (by omega) hw.2

theorem Memory.read_consCell {a c : Nat} {b : Byte} {rest : Memory} (h : rest.wfFrom (a + 1) = true) :
    (Memory.consCell a b rest).read c = if c = a then b else rest.read c := by
  unfold Memory.consCell
  split
  · next hb =>
    split
    · next hc => rw [hc, hb]; exact Memory.read_below (by omega) h
    · rfl
  · rfl

theorem Memory.wfFrom_consCell {a lo : Nat} {b : Byte} {rest : Memory} (hlo : lo ≤ a)
    (ha : a < Config.memSize) (h : rest.wfFrom (a + 1) = true) :
    (Memory.consCell a b rest).wfFrom lo = true := by
  unfold Memory.consCell
  split
  · exact Memory.wfFrom_mono (by omega) h
  · next hb => simp_all [Memory.wfFrom]

/-- A write keeps the canonical form. -/
theorem Memory.wfFrom_write {a : Nat} {b : Byte} (ha : a < Config.memSize) :
    ∀ {m : Memory} {lo : Nat}, lo ≤ a → m.wfFrom lo = true → (m.write a b).wfFrom lo = true
  | [], _, hlo, _ => Memory.wfFrom_consCell hlo ha rfl
  | (k, c) :: rest, lo, hlo, hw => by
    have hw' := hw
    simp only [Memory.wfFrom, Bool.and_eq_true, decide_eq_true_eq] at hw'
    obtain ⟨⟨⟨hk, hkm⟩, hc⟩, hrest⟩ := hw'
    unfold Memory.write
    split
    · next hlt =>
      refine Memory.wfFrom_consCell hlo ha ?_
      simp only [Memory.wfFrom, Bool.and_eq_true, decide_eq_true_eq]
      exact ⟨⟨⟨by omega, hkm⟩, hc⟩, hrest⟩
    · split
      · next heq => subst heq; exact Memory.wfFrom_consCell hlo ha hrest
      · next hne =>
        simp only [Memory.wfFrom, Bool.and_eq_true, decide_eq_true_eq]
        exact ⟨⟨⟨hk, hkm⟩, hc⟩, Memory.wfFrom_write ha (by omega) hrest⟩

theorem Memory.wf_write {m : Memory} {a : Nat} {b : Byte} (h : m.wf = true) (ha : a < Config.memSize) :
    (m.write a b).wf = true :=
  Memory.wfFrom_write ha (Nat.zero_le a) h

/-- Reading after a write: the byte written there, every other byte as before. -/
theorem Memory.read_write_from {a c : Nat} {b : Byte} :
    ∀ {m : Memory} {lo : Nat}, m.wfFrom lo = true →
      (m.write a b).read c = if c = a then b else m.read c
  | [], _, _ => Memory.read_consCell rfl
  | (k, d) :: rest, lo, hw => by
    have hw' := hw
    simp only [Memory.wfFrom, Bool.and_eq_true, decide_eq_true_eq] at hw'
    obtain ⟨⟨⟨hk, hkm⟩, hd⟩, hrest⟩ := hw'
    unfold Memory.write
    split
    · next hlt =>
      refine Memory.read_consCell ?_
      simp only [Memory.wfFrom, Bool.and_eq_true, decide_eq_true_eq]
      exact ⟨⟨⟨by omega, hkm⟩, hd⟩, hrest⟩
    · split
      · next heq =>
        subst heq
        rw [Memory.read_consCell hrest]
        split <;> simp_all [Memory.read]
      · next hne =>
        simp only [Memory.read, Memory.read_write_from hrest]
        split <;> split <;> simp_all

theorem Memory.read_write {m : Memory} {a c : Nat} {b : Byte} (h : m.wf = true) :
    (m.write a b).read c = if c = a then b else m.read c :=
  Memory.read_write_from h

theorem Memory.wfFrom_ofBytes (f : Nat → Byte) :
    ∀ (n a : Nat), a + n ≤ Config.memSize → (Memory.ofBytes f a n).wfFrom a = true
  | 0, _, _ => rfl
  | n + 1, a, h => by
    unfold Memory.ofBytes
    exact Memory.wfFrom_consCell (Nat.le_refl a) (by omega) (Memory.wfFrom_ofBytes f n (a + 1) (by omega))

/-- The memory after a fault is in canonical form, whatever its free bytes are. -/
theorem Memory.wf_ofBytes (f : Nat → Byte) : (Memory.ofBytes f 0 Config.memSize).wf = true :=
  Memory.wfFrom_ofBytes f Config.memSize 0 (by simp)

theorem Memory.wf_reset : State.reset.mem.wf = true := rfl

/-! ## Checked accesses -/

theorem memRead_ok {m : Memory} {a : Nat} (h : a < Config.memSize) : memRead m a = .ok (m.read a) := if_pos h

theorem memRead_error {m : Memory} {a : Nat} (h : Config.memSize ≤ a) : memRead m a = .error (.memOutOfRange a) :=
  if_neg (by omega)

theorem memWrite_ok {m : Memory} {a : Nat} {b : Byte} (h : a < Config.memSize) :
    memWrite m a b = .ok (m.write a b) := if_pos h

theorem memWrite_error {m : Memory} {a : Nat} {b : Byte} (h : Config.memSize ≤ a) :
    memWrite m a b = .error (.memOutOfRange a) := if_neg (by omega)

/-- Reading `n` bytes inside memory gives them all. -/
theorem loadBytes_ok {m : Memory} : ∀ {n a : Nat}, n = 0 ∨ a + n ≤ Config.memSize →
    loadBytes m a n = .ok ((List.range n).map fun k => m.read (a + k))
  | 0, _, _ => rfl
  | n + 1, a, h => by
    have h' : a + (n + 1) ≤ Config.memSize := by omega
    have ih := @loadBytes_ok m n (a + 1) (by omega)
    simp only [loadBytes, memRead_ok (m := m) (show a < Config.memSize by omega), ih, Except.map,
      List.range_succ_eq_map, List.map_cons, List.map_map, Nat.add_zero]
    congr 2
    refine List.map_congr_left fun k _ => ?_
    simp [Function.comp, Nat.add_assoc, Nat.add_comm 1 k]

/-- Reading past the end of memory faults at the first address outside. -/
theorem loadBytes_error {m : Memory} : ∀ {n a : Nat}, n ≠ 0 → Config.memSize < a + n →
    loadBytes m a n = .error (.memOutOfRange (max a Config.memSize))
  | 0, _, h0, _ => absurd rfl h0
  | n + 1, a, _, h => by
    by_cases ha : a < Config.memSize
    · have hn : n ≠ 0 := by omega
      have ih := @loadBytes_error m n (a + 1) hn (by omega)
      have hm : max (a + 1) Config.memSize = max a Config.memSize := by omega
      simp only [loadBytes, memRead_ok (m := m) ha, ih, Except.map, hm]
    · have hm : max a Config.memSize = a := by omega
      simp only [loadBytes, memRead_error (m := m) (show Config.memSize ≤ a by omega), hm]

/-- Writing bytes inside memory: the canonical form stays, the bytes are there, every other byte is as before. -/
theorem storeBytes_ok : ∀ {bs : List Byte} {m : Memory} {a : Nat}, m.wf = true →
    bs = [] ∨ a + bs.length ≤ Config.memSize →
    ∃ m' : Memory, storeBytes m a bs = .ok m' ∧ m'.wf = true ∧
      ∀ c, m'.read c = if a ≤ c ∧ c < a + bs.length then bs.getD (c - a) 0 else m.read c
  | [], m, a, hw, _ => ⟨m, rfl, hw, fun c => by
      have : ¬(a ≤ c ∧ c < a + ([] : List Byte).length) := by simp
      rw [if_neg this]⟩
  | b :: bs, m, a, hw, h => by
    have hl : a + (bs.length + 1) ≤ Config.memSize := by simpa using h
    have ha : a < Config.memSize := by omega
    obtain ⟨m', he, hw', hr⟩ := storeBytes_ok (bs := bs) (a := a + 1) (Memory.wf_write (b := b) hw ha) (by omega)
    refine ⟨m', by simp only [storeBytes, memWrite_ok ha, he], hw', fun c => ?_⟩
    rw [hr c, Memory.read_write hw]
    simp only [List.length_cons]
    by_cases h1 : a + 1 ≤ c ∧ c < a + 1 + bs.length
    · have h2 : a ≤ c ∧ c < a + (bs.length + 1) := by omega
      rw [if_pos h1, if_pos h2]
      obtain ⟨d, rfl⟩ : ∃ d, c = a + 1 + d := ⟨c - (a + 1), by omega⟩
      have e1 : a + 1 + d - (a + 1) = d := by omega
      have e2 : a + 1 + d - a = d + 1 := by omega
      rw [e1, e2, List.getD_cons_succ]
    · rw [if_neg h1]
      by_cases hc : c = a
      · subst hc
        have h2 : c ≤ c ∧ c < c + (bs.length + 1) := by omega
        rw [if_pos rfl, if_pos h2, Nat.sub_self, List.getD_cons_zero]
      · have h2 : ¬(a ≤ c ∧ c < a + (bs.length + 1)) := by omega
        rw [if_neg hc, if_neg h2]

/-- Writing past the end of memory faults at the first address outside. -/
theorem storeBytes_error : ∀ {bs : List Byte} {m : Memory} {a : Nat}, bs ≠ [] →
    Config.memSize < a + bs.length →
    storeBytes m a bs = .error (.memOutOfRange (max a Config.memSize))
  | [], _, _, h0, _ => absurd rfl h0
  | b :: bs, m, a, _, h => by
    simp only [List.length_cons] at h
    by_cases ha : a < Config.memSize
    · have hb : bs ≠ [] := by
        intro hb
        simp only [hb, List.length_nil] at h
        omega
      have hm : max (a + 1) Config.memSize = max a Config.memSize := by omega
      simp only [storeBytes, memWrite_ok ha, storeBytes_error (m := m.write a b) hb (show _ < a + 1 + bs.length by omega), hm]
    · have hm : max a Config.memSize = a := by omega
      simp only [storeBytes, memWrite_error (m := m) (b := b) (show Config.memSize ≤ a by omega), hm]

/-- Whatever stores succeed, the canonical form stays. -/
theorem storeBytes_keeps_wf {bs : List Byte} {m m' : Memory} {a : Nat} (hw : m.wf = true)
    (h : storeBytes m a bs = .ok m') : m'.wf = true := by
  by_cases hb : bs = [] ∨ a + bs.length ≤ Config.memSize
  · obtain ⟨m'', he, hw', -⟩ := storeBytes_ok hw hb
    rw [he] at h
    cases h
    exact hw'
  · rw [storeBytes_error (by tauto) (by omega)] at h
    cases h

/-- Everything a read of `n` bytes can do. -/
theorem loadBytes_cases (m : Memory) (a n : Nat) :
    (∃ bs, loadBytes m a n = .ok bs ∧ bs.length = n) ∨
      loadBytes m a n = .error (.memOutOfRange (max a Config.memSize)) := by
  by_cases h : n = 0 ∨ a + n ≤ Config.memSize
  · exact .inl ⟨_, loadBytes_ok h, by simp⟩
  · exact .inr (loadBytes_error (by tauto) (by omega))

/-- Everything a write of bytes to a canonical memory can do. -/
theorem storeBytes_cases (m : Memory) (a : Nat) (bs : List Byte) (hw : m.wf = true) :
    (∃ m' : Memory, storeBytes m a bs = .ok m' ∧ m'.wf = true) ∨
      storeBytes m a bs = .error (.memOutOfRange (max a Config.memSize)) := by
  by_cases h : bs = [] ∨ a + bs.length ≤ Config.memSize
  · obtain ⟨m', h1, h2, -⟩ := storeBytes_ok hw h
    exact .inl ⟨m', h1, h2⟩
  · exact .inr (storeBytes_error (by tauto) (by omega))

/-- Everything a write of bytes to any memory can do. -/
theorem storeBytes_outcome : ∀ (bs : List Byte) (m : Memory) (a : Nat),
    (∃ m', storeBytes m a bs = .ok m') ∨ ∃ b, storeBytes m a bs = .error (.memOutOfRange b)
  | [], m, _ => .inl ⟨m, rfl⟩
  | b :: bs, m, a => by
    by_cases ha : a < Config.memSize
    · simpa only [storeBytes, memWrite_ok ha] using storeBytes_outcome bs (m.write a b) (a + 1)
    · exact .inr ⟨a, by simp only [storeBytes, memWrite_error (m := m) (b := b) (show Config.memSize ≤ a by omega)]⟩

end Sys2Proof.Machine
end

