-- ==== Sys2Proof/Laws/State.lean ====
section
/-! SUPPORT. One lemma per field per update of the state, so that no proof unfolds a record update, and what reading a
register gives after each update. -/

namespace Sys2Proof.Machine

variable (s : State)

@[simp] theorem setV_v (x : Reg) (b : Byte) : (s.setV x b).v = s.v.set x.val b x.isLt := rfl
@[simp] theorem setV_i (x : Reg) (b : Byte) : (s.setV x b).i = s.i := rfl
@[simp] theorem setV_pc (x : Reg) (b : Byte) : (s.setV x b).pc = s.pc := rfl
@[simp] theorem setV_stack (x : Reg) (b : Byte) : (s.setV x b).stack = s.stack := rfl
@[simp] theorem setV_dt (x : Reg) (b : Byte) : (s.setV x b).dt = s.dt := rfl
@[simp] theorem setV_st (x : Reg) (b : Byte) : (s.setV x b).st = s.st := rfl
@[simp] theorem setV_mem (x : Reg) (b : Byte) : (s.setV x b).mem = s.mem := rfl
@[simp] theorem setV_fb (x : Reg) (b : Byte) : (s.setV x b).fb = s.fb := rfl
@[simp] theorem setV_changed (x : Reg) (b : Byte) : (s.setV x b).changed = s.changed := rfl
@[simp] theorem setV_status (x : Reg) (b : Byte) : (s.setV x b).status = s.status := rfl
@[simp] theorem setV_fault (x : Reg) (b : Byte) : (s.setV x b).fault = s.fault := rfl
@[simp] theorem setV_host (x : Reg) (b : Byte) : (s.setV x b).host = s.host := rfl
@[simp] theorem setV_taken (x : Reg) (b : Byte) : (s.setV x b).taken = s.taken := rfl

@[simp] theorem setRegs_v (w : Vector Byte 16) : (s.setRegs w).v = w := rfl
@[simp] theorem setRegs_i (w : Vector Byte 16) : (s.setRegs w).i = s.i := rfl
@[simp] theorem setRegs_pc (w : Vector Byte 16) : (s.setRegs w).pc = s.pc := rfl
@[simp] theorem setRegs_stack (w : Vector Byte 16) : (s.setRegs w).stack = s.stack := rfl
@[simp] theorem setRegs_dt (w : Vector Byte 16) : (s.setRegs w).dt = s.dt := rfl
@[simp] theorem setRegs_st (w : Vector Byte 16) : (s.setRegs w).st = s.st := rfl
@[simp] theorem setRegs_mem (w : Vector Byte 16) : (s.setRegs w).mem = s.mem := rfl
@[simp] theorem setRegs_fb (w : Vector Byte 16) : (s.setRegs w).fb = s.fb := rfl
@[simp] theorem setRegs_changed (w : Vector Byte 16) : (s.setRegs w).changed = s.changed := rfl
@[simp] theorem setRegs_status (w : Vector Byte 16) : (s.setRegs w).status = s.status := rfl
@[simp] theorem setRegs_fault (w : Vector Byte 16) : (s.setRegs w).fault = s.fault := rfl
@[simp] theorem setRegs_host (w : Vector Byte 16) : (s.setRegs w).host = s.host := rfl
@[simp] theorem setRegs_taken (w : Vector Byte 16) : (s.setRegs w).taken = s.taken := rfl

@[simp] theorem setI_v (w : Word) : (s.setI w).v = s.v := rfl
@[simp] theorem setI_i (w : Word) : (s.setI w).i = w := rfl
@[simp] theorem setI_pc (w : Word) : (s.setI w).pc = s.pc := rfl
@[simp] theorem setI_stack (w : Word) : (s.setI w).stack = s.stack := rfl
@[simp] theorem setI_dt (w : Word) : (s.setI w).dt = s.dt := rfl
@[simp] theorem setI_st (w : Word) : (s.setI w).st = s.st := rfl
@[simp] theorem setI_mem (w : Word) : (s.setI w).mem = s.mem := rfl
@[simp] theorem setI_fb (w : Word) : (s.setI w).fb = s.fb := rfl
@[simp] theorem setI_changed (w : Word) : (s.setI w).changed = s.changed := rfl
@[simp] theorem setI_status (w : Word) : (s.setI w).status = s.status := rfl
@[simp] theorem setI_fault (w : Word) : (s.setI w).fault = s.fault := rfl
@[simp] theorem setI_host (w : Word) : (s.setI w).host = s.host := rfl
@[simp] theorem setI_taken (w : Word) : (s.setI w).taken = s.taken := rfl
@[simp] theorem setI_reg (w : Word) (r : Reg) : (s.setI w).reg r = s.reg r := rfl

@[simp] theorem setPc_v (w : Word) : (s.setPc w).v = s.v := rfl
@[simp] theorem setPc_i (w : Word) : (s.setPc w).i = s.i := rfl
@[simp] theorem setPc_pc (w : Word) : (s.setPc w).pc = w := rfl
@[simp] theorem setPc_stack (w : Word) : (s.setPc w).stack = s.stack := rfl
@[simp] theorem setPc_dt (w : Word) : (s.setPc w).dt = s.dt := rfl
@[simp] theorem setPc_st (w : Word) : (s.setPc w).st = s.st := rfl
@[simp] theorem setPc_mem (w : Word) : (s.setPc w).mem = s.mem := rfl
@[simp] theorem setPc_fb (w : Word) : (s.setPc w).fb = s.fb := rfl
@[simp] theorem setPc_changed (w : Word) : (s.setPc w).changed = s.changed := rfl
@[simp] theorem setPc_status (w : Word) : (s.setPc w).status = s.status := rfl
@[simp] theorem setPc_fault (w : Word) : (s.setPc w).fault = s.fault := rfl
@[simp] theorem setPc_host (w : Word) : (s.setPc w).host = s.host := rfl
@[simp] theorem setPc_taken (w : Word) : (s.setPc w).taken = s.taken := rfl
@[simp] theorem setPc_reg (w : Word) (r : Reg) : (s.setPc w).reg r = s.reg r := rfl

@[simp] theorem setStack_v (l : List Word) : (s.setStack l).v = s.v := rfl
@[simp] theorem setStack_i (l : List Word) : (s.setStack l).i = s.i := rfl
@[simp] theorem setStack_pc (l : List Word) : (s.setStack l).pc = s.pc := rfl
@[simp] theorem setStack_stack (l : List Word) : (s.setStack l).stack = l := rfl
@[simp] theorem setStack_dt (l : List Word) : (s.setStack l).dt = s.dt := rfl
@[simp] theorem setStack_st (l : List Word) : (s.setStack l).st = s.st := rfl
@[simp] theorem setStack_mem (l : List Word) : (s.setStack l).mem = s.mem := rfl
@[simp] theorem setStack_fb (l : List Word) : (s.setStack l).fb = s.fb := rfl
@[simp] theorem setStack_changed (l : List Word) : (s.setStack l).changed = s.changed := rfl
@[simp] theorem setStack_status (l : List Word) : (s.setStack l).status = s.status := rfl
@[simp] theorem setStack_fault (l : List Word) : (s.setStack l).fault = s.fault := rfl
@[simp] theorem setStack_host (l : List Word) : (s.setStack l).host = s.host := rfl
@[simp] theorem setStack_taken (l : List Word) : (s.setStack l).taken = s.taken := rfl
@[simp] theorem setStack_reg (l : List Word) (r : Reg) : (s.setStack l).reg r = s.reg r := rfl

@[simp] theorem setDt_v (b : Byte) : (s.setDt b).v = s.v := rfl
@[simp] theorem setDt_i (b : Byte) : (s.setDt b).i = s.i := rfl
@[simp] theorem setDt_pc (b : Byte) : (s.setDt b).pc = s.pc := rfl
@[simp] theorem setDt_stack (b : Byte) : (s.setDt b).stack = s.stack := rfl
@[simp] theorem setDt_dt (b : Byte) : (s.setDt b).dt = b := rfl
@[simp] theorem setDt_st (b : Byte) : (s.setDt b).st = s.st := rfl
@[simp] theorem setDt_mem (b : Byte) : (s.setDt b).mem = s.mem := rfl
@[simp] theorem setDt_fb (b : Byte) : (s.setDt b).fb = s.fb := rfl
@[simp] theorem setDt_changed (b : Byte) : (s.setDt b).changed = s.changed := rfl
@[simp] theorem setDt_status (b : Byte) : (s.setDt b).status = s.status := rfl
@[simp] theorem setDt_fault (b : Byte) : (s.setDt b).fault = s.fault := rfl
@[simp] theorem setDt_host (b : Byte) : (s.setDt b).host = s.host := rfl
@[simp] theorem setDt_taken (b : Byte) : (s.setDt b).taken = s.taken := rfl
@[simp] theorem setDt_reg (b : Byte) (r : Reg) : (s.setDt b).reg r = s.reg r := rfl

@[simp] theorem setSt_v (b : Byte) : (s.setSt b).v = s.v := rfl
@[simp] theorem setSt_i (b : Byte) : (s.setSt b).i = s.i := rfl
@[simp] theorem setSt_pc (b : Byte) : (s.setSt b).pc = s.pc := rfl
@[simp] theorem setSt_stack (b : Byte) : (s.setSt b).stack = s.stack := rfl
@[simp] theorem setSt_dt (b : Byte) : (s.setSt b).dt = s.dt := rfl
@[simp] theorem setSt_st (b : Byte) : (s.setSt b).st = b := rfl
@[simp] theorem setSt_mem (b : Byte) : (s.setSt b).mem = s.mem := rfl
@[simp] theorem setSt_fb (b : Byte) : (s.setSt b).fb = s.fb := rfl
@[simp] theorem setSt_changed (b : Byte) : (s.setSt b).changed = s.changed := rfl
@[simp] theorem setSt_status (b : Byte) : (s.setSt b).status = s.status := rfl
@[simp] theorem setSt_fault (b : Byte) : (s.setSt b).fault = s.fault := rfl
@[simp] theorem setSt_host (b : Byte) : (s.setSt b).host = s.host := rfl
@[simp] theorem setSt_taken (b : Byte) : (s.setSt b).taken = s.taken := rfl
@[simp] theorem setSt_reg (b : Byte) (r : Reg) : (s.setSt b).reg r = s.reg r := rfl

@[simp] theorem setMem_v (m : Memory) : (s.setMem m).v = s.v := rfl
@[simp] theorem setMem_i (m : Memory) : (s.setMem m).i = s.i := rfl
@[simp] theorem setMem_pc (m : Memory) : (s.setMem m).pc = s.pc := rfl
@[simp] theorem setMem_stack (m : Memory) : (s.setMem m).stack = s.stack := rfl
@[simp] theorem setMem_dt (m : Memory) : (s.setMem m).dt = s.dt := rfl
@[simp] theorem setMem_st (m : Memory) : (s.setMem m).st = s.st := rfl
@[simp] theorem setMem_mem (m : Memory) : (s.setMem m).mem = m := rfl
@[simp] theorem setMem_fb (m : Memory) : (s.setMem m).fb = s.fb := rfl
@[simp] theorem setMem_changed (m : Memory) : (s.setMem m).changed = s.changed := rfl
@[simp] theorem setMem_status (m : Memory) : (s.setMem m).status = s.status := rfl
@[simp] theorem setMem_fault (m : Memory) : (s.setMem m).fault = s.fault := rfl
@[simp] theorem setMem_host (m : Memory) : (s.setMem m).host = s.host := rfl
@[simp] theorem setMem_taken (m : Memory) : (s.setMem m).taken = s.taken := rfl
@[simp] theorem setMem_reg (m : Memory) (r : Reg) : (s.setMem m).reg r = s.reg r := rfl

@[simp] theorem setDisplay_v (f : Framebuffer) : (s.setDisplay f).v = s.v := rfl
@[simp] theorem setDisplay_i (f : Framebuffer) : (s.setDisplay f).i = s.i := rfl
@[simp] theorem setDisplay_pc (f : Framebuffer) : (s.setDisplay f).pc = s.pc := rfl
@[simp] theorem setDisplay_stack (f : Framebuffer) : (s.setDisplay f).stack = s.stack := rfl
@[simp] theorem setDisplay_dt (f : Framebuffer) : (s.setDisplay f).dt = s.dt := rfl
@[simp] theorem setDisplay_st (f : Framebuffer) : (s.setDisplay f).st = s.st := rfl
@[simp] theorem setDisplay_mem (f : Framebuffer) : (s.setDisplay f).mem = s.mem := rfl
@[simp] theorem setDisplay_fb (f : Framebuffer) : (s.setDisplay f).fb = f := rfl
@[simp] theorem setDisplay_changed (f : Framebuffer) : (s.setDisplay f).changed = true := rfl
@[simp] theorem setDisplay_status (f : Framebuffer) : (s.setDisplay f).status = s.status := rfl
@[simp] theorem setDisplay_fault (f : Framebuffer) : (s.setDisplay f).fault = s.fault := rfl
@[simp] theorem setDisplay_host (f : Framebuffer) : (s.setDisplay f).host = s.host := rfl
@[simp] theorem setDisplay_taken (f : Framebuffer) : (s.setDisplay f).taken = s.taken := rfl
@[simp] theorem setDisplay_reg (f : Framebuffer) (r : Reg) : (s.setDisplay f).reg r = s.reg r := rfl

@[simp] theorem tick_v : s.tick.v = s.v := rfl
@[simp] theorem tick_i : s.tick.i = s.i := rfl
@[simp] theorem tick_pc : s.tick.pc = s.pc := rfl
@[simp] theorem tick_stack : s.tick.stack = s.stack := rfl
@[simp] theorem tick_dt : s.tick.dt = tickByte s.dt := rfl
@[simp] theorem tick_st : s.tick.st = tickByte s.st := rfl
@[simp] theorem tick_mem : s.tick.mem = s.mem := rfl
@[simp] theorem tick_fb : s.tick.fb = s.fb := rfl
@[simp] theorem tick_changed : s.tick.changed = s.changed := rfl
@[simp] theorem tick_status : s.tick.status = s.status := rfl
@[simp] theorem tick_fault : s.tick.fault = s.fault := rfl
@[simp] theorem tick_host : s.tick.host = s.host := rfl
@[simp] theorem tick_taken : s.tick.taken = s.taken := rfl
@[simp] theorem tick_reg (r : Reg) : s.tick.reg r = s.reg r := rfl

@[simp] theorem endEvent_v : s.endEvent.v = s.v := rfl
@[simp] theorem endEvent_i : s.endEvent.i = s.i := rfl
@[simp] theorem endEvent_pc : s.endEvent.pc = s.pc := rfl
@[simp] theorem endEvent_stack : s.endEvent.stack = s.stack := rfl
@[simp] theorem endEvent_dt : s.endEvent.dt = s.dt := rfl
@[simp] theorem endEvent_st : s.endEvent.st = s.st := rfl
@[simp] theorem endEvent_mem : s.endEvent.mem = s.mem := rfl
@[simp] theorem endEvent_fb : s.endEvent.fb = s.fb := rfl
@[simp] theorem endEvent_changed : s.endEvent.changed = s.changed := rfl
@[simp] theorem endEvent_status : s.endEvent.status = s.status := rfl
@[simp] theorem endEvent_fault : s.endEvent.fault = s.fault := rfl
@[simp] theorem endEvent_host : s.endEvent.host = s.host.tail := rfl
@[simp] theorem endEvent_taken : s.endEvent.taken = s.taken + 1 := rfl
@[simp] theorem endEvent_reg (r : Reg) : s.endEvent.reg r = s.reg r := rfl

@[simp] theorem ackRender_v : s.ackRender.v = s.v := rfl
@[simp] theorem ackRender_i : s.ackRender.i = s.i := rfl
@[simp] theorem ackRender_pc : s.ackRender.pc = s.pc := rfl
@[simp] theorem ackRender_stack : s.ackRender.stack = s.stack := rfl
@[simp] theorem ackRender_dt : s.ackRender.dt = s.dt := rfl
@[simp] theorem ackRender_st : s.ackRender.st = s.st := rfl
@[simp] theorem ackRender_mem : s.ackRender.mem = s.mem := rfl
@[simp] theorem ackRender_fb : s.ackRender.fb = s.fb := rfl
@[simp] theorem ackRender_changed : s.ackRender.changed = false := rfl
@[simp] theorem ackRender_status : s.ackRender.status = s.status := rfl
@[simp] theorem ackRender_fault : s.ackRender.fault = s.fault := rfl
@[simp] theorem ackRender_host : s.ackRender.host = s.host := rfl
@[simp] theorem ackRender_taken : s.ackRender.taken = s.taken := rfl
@[simp] theorem ackRender_reg (r : Reg) : s.ackRender.reg r = s.reg r := rfl

@[simp] theorem skipIf_v (c : Bool) : (s.skipIf c).v = s.v := by cases c <;> rfl
@[simp] theorem skipIf_i (c : Bool) : (s.skipIf c).i = s.i := by cases c <;> rfl
@[simp] theorem skipIf_stack (c : Bool) : (s.skipIf c).stack = s.stack := by cases c <;> rfl
@[simp] theorem skipIf_dt (c : Bool) : (s.skipIf c).dt = s.dt := by cases c <;> rfl
@[simp] theorem skipIf_st (c : Bool) : (s.skipIf c).st = s.st := by cases c <;> rfl
@[simp] theorem skipIf_mem (c : Bool) : (s.skipIf c).mem = s.mem := by cases c <;> rfl
@[simp] theorem skipIf_fb (c : Bool) : (s.skipIf c).fb = s.fb := by cases c <;> rfl
@[simp] theorem skipIf_changed (c : Bool) : (s.skipIf c).changed = s.changed := by cases c <;> rfl
@[simp] theorem skipIf_status (c : Bool) : (s.skipIf c).status = s.status := by cases c <;> rfl
@[simp] theorem skipIf_fault (c : Bool) : (s.skipIf c).fault = s.fault := by cases c <;> rfl
@[simp] theorem skipIf_host (c : Bool) : (s.skipIf c).host = s.host := by cases c <;> rfl
@[simp] theorem skipIf_taken (c : Bool) : (s.skipIf c).taken = s.taken := by cases c <;> rfl
@[simp] theorem skipIf_reg (c : Bool) (r : Reg) : (s.skipIf c).reg r = s.reg r := by cases c <;> rfl
@[simp] theorem skipIf_pc (c : Bool) : (s.skipIf c).pc = if c then s.pc + 2 else s.pc := by cases c <;> rfl

@[simp] theorem setV_reg (x : Reg) (b : Byte) (r : Reg) :
    (s.setV x b).reg r = if r = x then b else s.reg r := by
  simp only [State.reg, setV_v, Fin.getElem_fin, Vector.getElem_set, Fin.ext_iff]
  by_cases h : x.val = r.val <;> simp [h, eq_comm]

@[simp] theorem setVWithFlag_reg (x : Reg) (b : Byte) (f : Bool) (r : Reg) :
    (s.setVWithFlag x b f).reg r = if r = Reg.vf then flagByte f else if r = x then b else s.reg r := by
  simp only [State.setVWithFlag, setV_reg]

@[simp] theorem setVWithFlag_i (x : Reg) (b : Byte) (f : Bool) : (s.setVWithFlag x b f).i = s.i := rfl
@[simp] theorem setVWithFlag_pc (x : Reg) (b : Byte) (f : Bool) : (s.setVWithFlag x b f).pc = s.pc := rfl
@[simp] theorem setVWithFlag_stack (x : Reg) (b : Byte) (f : Bool) : (s.setVWithFlag x b f).stack = s.stack := rfl
@[simp] theorem setVWithFlag_dt (x : Reg) (b : Byte) (f : Bool) : (s.setVWithFlag x b f).dt = s.dt := rfl
@[simp] theorem setVWithFlag_st (x : Reg) (b : Byte) (f : Bool) : (s.setVWithFlag x b f).st = s.st := rfl
@[simp] theorem setVWithFlag_mem (x : Reg) (b : Byte) (f : Bool) : (s.setVWithFlag x b f).mem = s.mem := rfl
@[simp] theorem setVWithFlag_fb (x : Reg) (b : Byte) (f : Bool) : (s.setVWithFlag x b f).fb = s.fb := rfl
@[simp] theorem setVWithFlag_changed (x : Reg) (b : Byte) (f : Bool) : (s.setVWithFlag x b f).changed = s.changed := rfl
@[simp] theorem setVWithFlag_status (x : Reg) (b : Byte) (f : Bool) : (s.setVWithFlag x b f).status = s.status := rfl
@[simp] theorem setVWithFlag_fault (x : Reg) (b : Byte) (f : Bool) : (s.setVWithFlag x b f).fault = s.fault := rfl
@[simp] theorem setVWithFlag_host (x : Reg) (b : Byte) (f : Bool) : (s.setVWithFlag x b f).host = s.host := rfl
@[simp] theorem setVWithFlag_taken (x : Reg) (b : Byte) (f : Bool) : (s.setVWithFlag x b f).taken = s.taken := rfl

end Sys2Proof.Machine
end

