-- ==== Sys2Proof/Laws/Ops.lean ====
section
/-! SUPPORT. One lemma per shared operation that says everything it can do; later proofs cite these and do not unfold
the operation. -/

namespace Sys2Proof.Machine

/-! ## How a meaning ends -/

@[simp] theorem done_eq (t : State) : done t = .next t := rfl

@[simp] theorem settle_ok (i : Instr) (s t : State) : settle i s (.ok t) = .next t := rfl

@[simp] theorem settle_error (i : Instr) (s : State) (f : Fault) :
    settle i s (.error f) = .next (takeFault f s.ownAddress (some (encode i)) s) := rfl

@[simp] theorem map_ok {α β : Type} (g : α → β) (a : α) : (Except.ok a : Except Fault α).map g = .ok (g a) := rfl

@[simp] theorem map_error {α β : Type} (g : α → β) (f : Fault) :
    (Except.error f : Except Fault α).map g = .error f := rfl

/-! ## Taking a fault -/

section
variable (f : Fault) (pc0 : Word) (op : Option Word) (s : State)

@[simp] theorem takeFault_status : (takeFault f pc0 op s).status = .halted := rfl

@[simp] theorem takeFault_fault :
    (takeFault f pc0 op s).fault = some { kind := f.kind, pc := pc0, opcode := op, addr := f.addr } := rfl

@[simp] theorem takeFault_host : (takeFault f pc0 op s).host = s.host := rfl

@[simp] theorem takeFault_taken : (takeFault f pc0 op s).taken = s.taken := rfl

@[simp] theorem takeFault_mem_wf : (takeFault f pc0 op s).mem.wf = true := Memory.wf_ofBytes _

theorem takeFault_depth : (takeFault f pc0 op s).stack.length ≤ Config.stackCapacity := by
  simp only [takeFault, List.length_take]
  omega

end

/-! ## Call stack -/

theorem push_ok {s : State} {w : Word} (h : s.stack.length < Config.stackCapacity) :
    s.push w = .ok (s.setStack (w :: s.stack)) := if_pos h

theorem push_error {s : State} {w : Word} (h : Config.stackCapacity ≤ s.stack.length) :
    s.push w = .error .stackOverflow := if_neg (by omega)

theorem pop_ok {s : State} {w : Word} {rest : List Word} (h : s.stack = w :: rest) :
    s.pop = .ok (w, s.setStack rest) := by
  simp only [State.pop, h]

theorem pop_error {s : State} (h : s.stack = []) : s.pop = .error .stackUnderflow := by
  simp only [State.pop, h]

/-! ## Operands -/

theorem selector_ok {b : Byte} (h : b.toNat < 16) : selector b = .ok ⟨b.toNat, h⟩ := dif_pos h

theorem selector_error {b : Byte} (h : 16 ≤ b.toNat) : selector b = .error .operandRange :=
  dif_neg (by simpa using h)

/-- Everything the range check of a key index or digit can do. -/
theorem selector_cases (b : Byte) : (∃ k, selector b = .ok k) ∨ selector b = .error .operandRange := by
  by_cases h : b.toNat < 16
  · exact .inl ⟨_, selector_ok h⟩
  · exact .inr (selector_error (by omega))

theorem flagByte_toNat (b : Bool) : (flagByte b).toNat = if b then 1 else 0 := by cases b <;> rfl

theorem flagByte_cases (b : Bool) : flagByte b = 0 ∨ flagByte b = 1 := by cases b <;> simp [flagByte]

theorem firstKey_none {keys : Keys} (h : ∀ k : Fin 16, keys[k] = false) : firstKey keys = none := by
  rw [firstKey, List.find?_eq_none]
  intro k _
  rw [h k]
  decide

theorem firstKey_some {keys : Keys} {k : Fin 16} (hk : keys[k] = true)
    (hj : ∀ j : Fin 16, j < k → keys[j] = false) : firstKey keys = some k := by
  have hl : ([0, 1, 2, 3, 4, 5, 6, 7, 8, 9, 10, 11, 12, 13, 14, 15] : List (Fin 16)) = List.finRange 16 := by decide
  rw [firstKey, hl, List.find?_eq_some_iff_getElem]
  refine ⟨hk, k.val, by simp, by simp, fun j hlt => ?_⟩
  have := hj ⟨j, by omega⟩ hlt
  simpa using this

theorem zext16_toNat (nnn : Addr) : (zext16 nnn).toNat = nnn.toNat := by
  simp only [zext16, BitVec.toNat_ofNat]
  omega

theorem zextByte_toNat (b : Byte) : (zextByte b).toNat = b.toNat := by
  simp only [zextByte, BitVec.toNat_ofNat]
  omega

theorem glyphAddr_toNat (d : Fin 16) : (glyphAddr d).toNat = 5 * d.val := by
  simp only [glyphAddr, Config.fontBase, Config.glyphBytes, BitVec.toNat_ofNat]
  omega

theorem regsUpTo_length (s : State) (x : Reg) : (s.regsUpTo x).length = x.val + 1 := by
  simp only [State.regsUpTo, List.length_take, Vector.length_toList]
  omega

/-- The k-th byte STARR stores is register `k`. -/
theorem regsUpTo_getD (s : State) (x : Reg) (k : Reg) (h : k ≤ x) : (s.regsUpTo x).getD k.val 0 = s.reg k := by
  have hk : k.val < x.val + 1 := by
    have : k.val ≤ x.val := h
    omega
  have hl : k.val < (s.regsUpTo x).length := by
    rw [regsUpTo_length]
    exact hk
  rw [List.getD_eq_getElem?_getD, List.getElem?_eq_getElem hl, Option.getD_some]
  simp only [State.regsUpTo, List.getElem_take, Vector.getElem_toList]
  rfl

/-- Reading a register after a run of registers has been filled. -/
theorem fillRegs_get : ∀ (bs : List Byte) (v : Vector Byte 16) (k : Nat) (r : Reg),
    (fillRegs v k bs)[r] = if k ≤ r.val ∧ r.val < k + bs.length then bs.getD (r.val - k) 0 else v[r]
  | [], v, k, r => by
    have : ¬(k ≤ r.val ∧ r.val < k + ([] : List Byte).length) := by simp
    rw [if_neg this]
    rfl
  | b :: bs, v, k, r => by
    simp only [fillRegs, fillRegs_get bs, List.length_cons]
    by_cases h1 : k + 1 ≤ r.val ∧ r.val < k + 1 + bs.length
    · have h2 : k ≤ r.val ∧ r.val < k + (bs.length + 1) := by omega
      rw [if_pos h1, if_pos h2]
      obtain ⟨d, hd⟩ : ∃ d, r.val = k + 1 + d := ⟨r.val - (k + 1), by omega⟩
      have e1 : r.val - (k + 1) = d := by omega
      have e2 : r.val - k = d + 1 := by omega
      rw [e1, e2, List.getD_cons_succ]
    · rw [if_neg h1]
      simp only [Fin.getElem_fin, Vector.getElem_setIfInBounds]
      by_cases hk : k = r.val
      · have h2 : k ≤ r.val ∧ r.val < k + (bs.length + 1) := by omega
        rw [if_pos hk, if_pos h2, hk, Nat.sub_self, List.getD_cons_zero]
      · have h2 : ¬(k ≤ r.val ∧ r.val < k + (bs.length + 1)) := by omega
        rw [if_neg hk, if_neg h2]

/-! ## Timer unit -/

theorem tickByte_toNat (b : Byte) : (tickByte b).toNat = b.toNat - 1 := by
  unfold tickByte
  split
  · next h => subst h; rfl
  · next h =>
    have h0 : b.toNat ≠ 0 := fun h' => h (BitVec.eq_of_toNat_eq h')
    have hb := b.isLt
    have h1 : (1 : Byte).toNat = 1 := rfl
    simp only [BitVec.toNat_sub, h1]
    omega

/-! ## Instruction fetch -/

theorem fetch_ok {s : State} (h : s.pc.toNat + 1 < Config.memSize) :
    fetch s = .ok (opcodeOfBytes (s.mem.read s.pc.toNat) (s.mem.read (s.pc.toNat + 1)), s.setPc (s.pc + 2)) := by
  simp only [fetch, memRead_ok h, memRead_ok (show s.pc.toNat < Config.memSize by omega)]

theorem fetch_error {s : State} (h : Config.memSize ≤ s.pc.toNat + 1) :
    fetch s = .error (.memOutOfRange (max s.pc.toNat Config.memSize)) := by
  by_cases hp : s.pc.toNat < Config.memSize
  · have hm : max s.pc.toNat Config.memSize = s.pc.toNat + 1 := by omega
    simp only [fetch, memRead_ok hp, memRead_error h, hm]
  · have hm : max s.pc.toNat Config.memSize = s.pc.toNat := by omega
    simp only [fetch, memRead_error (show Config.memSize ≤ s.pc.toNat by omega), hm]

theorem opcodeOfBytes_toNat (hi lo : Byte) : (opcodeOfBytes hi lo).toNat = hi.toNat * 256 + lo.toNat := by
  have h1 := hi.isLt
  have h2 := lo.isLt
  simp only [opcodeOfBytes, BitVec.toNat_ofNat]
  omega

/-! ## The host's inputs -/

/-- What a host input can do: answer a next state, unless it is a reset with an image that does not fit. -/
theorem thenEndEvent_next (t : State) : thenEndEvent (.next t) = .next t.endEvent := rfl

theorem restart_ok {s : State} {rom : List Byte} (h : rom.length ≤ 3584) :
    ∃ m : Memory, s.restart rom = .ok { State.reset.setMem m with host := s.host, taken := s.taken } ∧
      m.wf = true ∧
      ∀ a, m.read a = if 0x200 ≤ a ∧ a < 0x200 + rom.length then rom.getD (a - 0x200) 0 else Memory.resetByte a := by
  obtain ⟨m, he, hw, hr⟩ := storeBytes_ok (bs := rom) (a := Config.loadAddr) Memory.wf_reset
    (Or.inr (by simp only [Config.loadAddr, Config.memSize]; omega))
  exact ⟨m, by simp only [State.restart, he, map_ok], hw, hr⟩

theorem restart_error {s : State} {rom : List Byte} (h : 3584 < rom.length) :
    s.restart rom = .error (.memOutOfRange Config.memSize) := by
  have hne : rom ≠ [] := by
    intro hr
    simp only [hr, List.length_nil] at h
    omega
  have he := storeBytes_error (m := State.reset.mem) (a := Config.loadAddr) hne
    (by simp only [Config.loadAddr, Config.memSize]; omega)
  simp only [State.restart, he, map_error]
  rfl

/-! ## Compositor -/

theorem pixel_setPixel (fb : Framebuffer) (r r' : Fin 32) (c c' : Fin 64) (b : Bool) :
    pixel (setPixel fb r c b) r' c' = if r' = r ∧ c' = c then b else pixel fb r' c' := by
  simp only [pixel, setPixel, Fin.getElem_fin, Vector.getElem_set]
  by_cases hr : r.val = r'.val
  · have hr' : r' = r := Fin.ext hr.symm
    subst hr'
    by_cases hc : c.val = c'.val
    · have hc' : c' = c := Fin.ext hc.symm
      subst hc'
      simp
    · have hc' : c' ≠ c := fun h => hc (by rw [h])
      simp [hc, hc']
  · have hr' : r' ≠ r := fun h => hr (by rw [h])
    simp [hr, hr']

/-- One sprite bit changes one pixel, by XOR. -/
theorem pixel_drawBit (cv : Canvas) (row col : Nat) (bit : Bool) (r : Fin 32) (c : Fin 64) :
    pixel (drawBit cv row col bit).fb r c =
      if r = wrapRow row ∧ c = wrapCol col then (pixel cv.fb r c ^^ bit) else pixel cv.fb r c := by
  simp only [drawBit, pixel_setPixel]
  split
  · next h => rw [h.1, h.2]
  · rfl

theorem coll_drawBit (cv : Canvas) (row col : Nat) (bit : Bool) :
    (drawBit cv row col bit).coll = (cv.coll || (bit && pixel cv.fb (wrapRow row) (wrapCol col))) := rfl

@[simp] theorem pixel_clearScreen (r : Fin 32) (c : Fin 64) : pixel clearScreen r c = false := by
  simp [pixel, clearScreen]

end Sys2Proof.Machine
end

