-- ==== Sys2Proof/Laws/PerInstr.lean ====
section
/-! SUPPORT. Statements made per instruction. `TableRow`: the word the encoder writes selects the instruction's own row of
the opcode table (spec/30_encoding.md section 6), under the name the table gives it. -/

namespace Sys2Proof.Laws.TableRow

/-- The encoded word selects the instruction's own row, which is a row of the table. -/
def Statement (i : Instr) : Prop := (tableRow i).selects (encode i) = true ∧ tableRow i ∈ opcodeRows

theorem selects_of_toNat {name : String} {value mask w : Word} (h : (w &&& mask).toNat = value.toNat) :
    (OpcodeRow.mk name value mask).selects w = true := by
  simp only [OpcodeRow.selects, beq_iff_eq]
  exact BitVec.eq_of_toNat_eq h

theorem cls : Statement (.cls) := by
  refine ⟨by decide, by simp [tableRow, opcodeRows, opcodeRowsLow]⟩

theorem ret : Statement (.ret) := by
  refine ⟨by decide, by simp [tableRow, opcodeRows, opcodeRowsLow]⟩

theorem jump (nnn : Addr) : Statement (.jump nnn) := by
  have h_nnn := nnn.isLt
  refine ⟨selects_of_toNat ?_, show OpcodeRow.mk "JUMP" 0x1000 0xF000 ∈ opcodeRows by decide⟩
  rw [and_F000_toNat, encode, wordNNN_toNat 0x1 nnn (by decide)]
  change _ = 0x1000
  omega

theorem call (nnn : Addr) : Statement (.call nnn) := by
  have h_nnn := nnn.isLt
  refine ⟨selects_of_toNat ?_, show OpcodeRow.mk "CALL" 0x2000 0xF000 ∈ opcodeRows by decide⟩
  rw [and_F000_toNat, encode, wordNNN_toNat 0x2 nnn (by decide)]
  change _ = 0x2000
  omega

theorem se (x : Reg) (kk : Byte) : Statement (.se x kk) := by
  have h_x := x.isLt
  have h_kk := kk.isLt
  refine ⟨selects_of_toNat ?_, show OpcodeRow.mk "SE" 0x3000 0xF000 ∈ opcodeRows by decide⟩
  rw [and_F000_toNat, encode, wordXKK_toNat 0x3 x kk (by decide)]
  change _ = 0x3000
  omega

theorem sne (x : Reg) (kk : Byte) : Statement (.sne x kk) := by
  have h_x := x.isLt
  have h_kk := kk.isLt
  refine ⟨selects_of_toNat ?_, show OpcodeRow.mk "SNE" 0x4000 0xF000 ∈ opcodeRows by decide⟩
  rw [and_F000_toNat, encode, wordXKK_toNat 0x4 x kk (by decide)]
  change _ = 0x4000
  omega

theorem ser (x y : Reg) : Statement (.ser x y) := by
  have h_x := x.isLt
  have h_y := y.isLt
  have e0 : (0 : Fin 16).val = 0 := rfl
  refine ⟨selects_of_toNat ?_, show OpcodeRow.mk "SER" 0x5000 0xF000 ∈ opcodeRows by decide⟩
  rw [and_F000_toNat, encode, wordXYN_toNat 0x5 x y 0 (by decide)]
  change _ = 0x5000
  omega

theorem ld (x : Reg) (kk : Byte) : Statement (.ld x kk) := by
  have h_x := x.isLt
  have h_kk := kk.isLt
  refine ⟨selects_of_toNat ?_, show OpcodeRow.mk "LD" 0x6000 0xF000 ∈ opcodeRows by decide⟩
  rw [and_F000_toNat, encode, wordXKK_toNat 0x6 x kk (by decide)]
  change _ = 0x6000
  omega

theorem add (x : Reg) (kk : Byte) : Statement (.add x kk) := by
  have h_x := x.isLt
  have h_kk := kk.isLt
  refine ⟨selects_of_toNat ?_, show OpcodeRow.mk "ADD" 0x7000 0xF000 ∈ opcodeRows by decide⟩
  rw [and_F000_toNat, encode, wordXKK_toNat 0x7 x kk (by decide)]
  change _ = 0x7000
  omega

theorem ldr (x y : Reg) : Statement (.ldr x y) := by
  have h_x := x.isLt
  have h_y := y.isLt
  have e0x0 : (0x0 : Fin 16).val = 0x0 := rfl
  refine ⟨selects_of_toNat ?_, show OpcodeRow.mk "LDR" 0x8000 0xF00F ∈ opcodeRows by decide⟩
  rw [and_F00F_toNat, encode, wordXYN_toNat 0x8 x y 0x0 (by decide)]
  change _ = 0x8000
  omega

theorem or (x y : Reg) : Statement (.or x y) := by
  have h_x := x.isLt
  have h_y := y.isLt
  have e0x1 : (0x1 : Fin 16).val = 0x1 := rfl
  refine ⟨selects_of_toNat ?_, show OpcodeRow.mk "OR" 0x8001 0xF00F ∈ opcodeRows by decide⟩
  rw [and_F00F_toNat, encode, wordXYN_toNat 0x8 x y 0x1 (by decide)]
  change _ = 0x8001
  omega

theorem and (x y : Reg) : Statement (.and x y) := by
  have h_x := x.isLt
  have h_y := y.isLt
  have e0x2 : (0x2 : Fin 16).val = 0x2 := rfl
  refine ⟨selects_of_toNat ?_, show OpcodeRow.mk "AND" 0x8002 0xF00F ∈ opcodeRows by decide⟩
  rw [and_F00F_toNat, encode, wordXYN_toNat 0x8 x y 0x2 (by decide)]
  change _ = 0x8002
  omega

theorem xor (x y : Reg) : Statement (.xor x y) := by
  have h_x := x.isLt
  have h_y := y.isLt
  have e0x3 : (0x3 : Fin 16).val = 0x3 := rfl
  refine ⟨selects_of_toNat ?_, show OpcodeRow.mk "XOR" 0x8003 0xF00F ∈ opcodeRows by decide⟩
  rw [and_F00F_toNat, encode, wordXYN_toNat 0x8 x y 0x3 (by decide)]
  change _ = 0x8003
  omega

theorem addr (x y : Reg) : Statement (.addr x y) := by
  have h_x := x.isLt
  have h_y := y.isLt
  have e0x4 : (0x4 : Fin 16).val = 0x4 := rfl
  refine ⟨selects_of_toNat ?_, show OpcodeRow.mk "ADDR" 0x8004 0xF00F ∈ opcodeRows by decide⟩
  rw [and_F00F_toNat, encode, wordXYN_toNat 0x8 x y 0x4 (by decide)]
  change _ = 0x8004
  omega

theorem subr (x y : Reg) : Statement (.subr x y) := by
  have h_x := x.isLt
  have h_y := y.isLt
  have e0x5 : (0x5 : Fin 16).val = 0x5 := rfl
  refine ⟨selects_of_toNat ?_, show OpcodeRow.mk "SUBR" 0x8005 0xF00F ∈ opcodeRows by decide⟩
  rw [and_F00F_toNat, encode, wordXYN_toNat 0x8 x y 0x5 (by decide)]
  change _ = 0x8005
  omega

theorem shr (x : Reg) : Statement (.shr x) := by
  have h_x := x.isLt
  have e0 : (0 : Reg).val = 0 := rfl
  have e0x6 : (0x6 : Fin 16).val = 0x6 := rfl
  refine ⟨selects_of_toNat ?_, show OpcodeRow.mk "SHR" 0x8006 0xF00F ∈ opcodeRows by decide⟩
  rw [and_F00F_toNat, encode, wordXYN_toNat 0x8 x 0 0x6 (by decide)]
  change _ = 0x8006
  omega

theorem subnr (x y : Reg) : Statement (.subnr x y) := by
  have h_x := x.isLt
  have h_y := y.isLt
  have e0x7 : (0x7 : Fin 16).val = 0x7 := rfl
  refine ⟨selects_of_toNat ?_, show OpcodeRow.mk "SUBNR" 0x8007 0xF00F ∈ opcodeRows by decide⟩
  rw [and_F00F_toNat, encode, wordXYN_toNat 0x8 x y 0x7 (by decide)]
  change _ = 0x8007
  omega

theorem shl (x : Reg) : Statement (.shl x) := by
  have h_x := x.isLt
  have e0 : (0 : Reg).val = 0 := rfl
  have e0xE : (0xE : Fin 16).val = 0xE := rfl
  refine ⟨selects_of_toNat ?_, show OpcodeRow.mk "SHL" 0x800E 0xF00F ∈ opcodeRows by decide⟩
  rw [and_F00F_toNat, encode, wordXYN_toNat 0x8 x 0 0xE (by decide)]
  change _ = 0x800E
  omega

theorem sner (x y : Reg) : Statement (.sner x y) := by
  have h_x := x.isLt
  have h_y := y.isLt
  have e0 : (0 : Fin 16).val = 0 := rfl
  refine ⟨selects_of_toNat ?_, show OpcodeRow.mk "SNER" 0x9000 0xF000 ∈ opcodeRows by decide⟩
  rw [and_F000_toNat, encode, wordXYN_toNat 0x9 x y 0 (by decide)]
  change _ = 0x9000
  omega

theorem ldi (nnn : Addr) : Statement (.ldi nnn) := by
  have h_nnn := nnn.isLt
  refine ⟨selects_of_toNat ?_, show OpcodeRow.mk "LDI" 0xA000 0xF000 ∈ opcodeRows by decide⟩
  rw [and_F000_toNat, encode, wordNNN_toNat 0xA nnn (by decide)]
  change _ = 0xA000
  omega

theorem jumpv0 (nnn : Addr) : Statement (.jumpv0 nnn) := by
  have h_nnn := nnn.isLt
  refine ⟨selects_of_toNat ?_, show OpcodeRow.mk "JUMPV0" 0xB000 0xF000 ∈ opcodeRows by decide⟩
  rw [and_F000_toNat, encode, wordNNN_toNat 0xB nnn (by decide)]
  change _ = 0xB000
  omega

theorem rnd (x : Reg) (kk : Byte) : Statement (.rnd x kk) := by
  have h_x := x.isLt
  have h_kk := kk.isLt
  refine ⟨selects_of_toNat ?_, show OpcodeRow.mk "RND" 0xC000 0xF000 ∈ opcodeRows by decide⟩
  rw [and_F000_toNat, encode, wordXKK_toNat 0xC x kk (by decide)]
  change _ = 0xC000
  omega

theorem drw (x y : Reg) (n : Fin 16) : Statement (.drw x y n) := by
  have h_x := x.isLt
  have h_y := y.isLt
  have h_n := n.isLt
  refine ⟨selects_of_toNat ?_, show OpcodeRow.mk "DRW" 0xD000 0xF000 ∈ opcodeRows by decide⟩
  rw [and_F000_toNat, encode, wordXYN_toNat 0xD x y n (by decide)]
  change _ = 0xD000
  omega

theorem skp (x : Reg) : Statement (.skp x) := by
  have h_x := x.isLt
  have e0x9E : (0x9E : Byte).toNat = 0x9E := rfl
  refine ⟨selects_of_toNat ?_, show OpcodeRow.mk "SKP" 0xE09E 0xF0FF ∈ opcodeRows by decide⟩
  rw [and_F0FF_toNat, encode, wordXKK_toNat 0xE x 0x9E (by decide)]
  change _ = 0xE09E
  omega

theorem sknp (x : Reg) : Statement (.sknp x) := by
  have h_x := x.isLt
  have e0xA1 : (0xA1 : Byte).toNat = 0xA1 := rfl
  refine ⟨selects_of_toNat ?_, show OpcodeRow.mk "SKNP" 0xE0A1 0xF0FF ∈ opcodeRows by decide⟩
  rw [and_F0FF_toNat, encode, wordXKK_toNat 0xE x 0xA1 (by decide)]
  change _ = 0xE0A1
  omega

theorem ldvdt (x : Reg) : Statement (.ldvdt x) := by
  have h_x := x.isLt
  have e0x07 : (0x07 : Byte).toNat = 0x07 := rfl
  refine ⟨selects_of_toNat ?_, show OpcodeRow.mk "LDVDT" 0xF007 0xF0FF ∈ opcodeRows by decide⟩
  rw [and_F0FF_toNat, encode, wordXKK_toNat 0xF x 0x07 (by decide)]
  change _ = 0xF007
  omega

theorem ldk (x : Reg) : Statement (.ldk x) := by
  have h_x := x.isLt
  have e0x0A : (0x0A : Byte).toNat = 0x0A := rfl
  refine ⟨selects_of_toNat ?_, show OpcodeRow.mk "LDK" 0xF00A 0xF0FF ∈ opcodeRows by decide⟩
  rw [and_F0FF_toNat, encode, wordXKK_toNat 0xF x 0x0A (by decide)]
  change _ = 0xF00A
  omega

theorem lddtv (x : Reg) : Statement (.lddtv x) := by
  have h_x := x.isLt
  have e0x15 : (0x15 : Byte).toNat = 0x15 := rfl
  refine ⟨selects_of_toNat ?_, show OpcodeRow.mk "LDDTV" 0xF015 0xF0FF ∈ opcodeRows by decide⟩
  rw [and_F0FF_toNat, encode, wordXKK_toNat 0xF x 0x15 (by decide)]
  change _ = 0xF015
  omega

theorem ldstv (x : Reg) : Statement (.ldstv x) := by
  have h_x := x.isLt
  have e0x18 : (0x18 : Byte).toNat = 0x18 := rfl
  refine ⟨selects_of_toNat ?_, show OpcodeRow.mk "LDSTV" 0xF018 0xF0FF ∈ opcodeRows by decide⟩
  rw [and_F0FF_toNat, encode, wordXKK_toNat 0xF x 0x18 (by decide)]
  change _ = 0xF018
  omega

theorem addi (x : Reg) : Statement (.addi x) := by
  have h_x := x.isLt
  have e0x1E : (0x1E : Byte).toNat = 0x1E := rfl
  refine ⟨selects_of_toNat ?_, show OpcodeRow.mk "ADDI" 0xF01E 0xF0FF ∈ opcodeRows by decide⟩
  rw [and_F0FF_toNat, encode, wordXKK_toNat 0xF x 0x1E (by decide)]
  change _ = 0xF01E
  omega

theorem ldfont (x : Reg) : Statement (.ldfont x) := by
  have h_x := x.isLt
  have e0x29 : (0x29 : Byte).toNat = 0x29 := rfl
  refine ⟨selects_of_toNat ?_, show OpcodeRow.mk "LDFONT" 0xF029 0xF0FF ∈ opcodeRows by decide⟩
  rw [and_F0FF_toNat, encode, wordXKK_toNat 0xF x 0x29 (by decide)]
  change _ = 0xF029
  omega

theorem ldbcd (x : Reg) : Statement (.ldbcd x) := by
  have h_x := x.isLt
  have e0x33 : (0x33 : Byte).toNat = 0x33 := rfl
  refine ⟨selects_of_toNat ?_, show OpcodeRow.mk "LDBCD" 0xF033 0xF0FF ∈ opcodeRows by decide⟩
  rw [and_F0FF_toNat, encode, wordXKK_toNat 0xF x 0x33 (by decide)]
  change _ = 0xF033
  omega

theorem starr (x : Reg) : Statement (.starr x) := by
  have h_x := x.isLt
  have e0x55 : (0x55 : Byte).toNat = 0x55 := rfl
  refine ⟨selects_of_toNat ?_, show OpcodeRow.mk "STARR" 0xF055 0xF0FF ∈ opcodeRows by decide⟩
  rw [and_F0FF_toNat, encode, wordXKK_toNat 0xF x 0x55 (by decide)]
  change _ = 0xF055
  omega

theorem ldarr (x : Reg) : Statement (.ldarr x) := by
  have h_x := x.isLt
  have e0x65 : (0x65 : Byte).toNat = 0x65 := rfl
  refine ⟨selects_of_toNat ?_, show OpcodeRow.mk "LDARR" 0xF065 0xF0FF ∈ opcodeRows by decide⟩
  rw [and_F0FF_toNat, encode, wordXKK_toNat 0xF x 0x65 (by decide)]
  change _ = 0xF065
  omega

end Sys2Proof.Laws.TableRow
end

