-- ==== Sys2Proof/Laws/Safety.lean ====
section
/-! SUPPORT. The small lemmas of the terms claims use: stored bytes laid over memory, and runs of cycles. -/

namespace Sys2Proof.Machine

/-! ## Stored bytes laid over memory -/

theorem overlaid_covered {m : Memory} {a k : Nat} {bs : List Byte} (h : k < bs.length) :
    overlaid m a bs (a + k) = bs.getD k 0 := by
  rw [overlaid, if_pos (by omega), Nat.add_sub_cancel_left]

theorem overlaid_outside {m : Memory} {a c : Nat} {bs : List Byte} (h : c < a ∨ a + bs.length ≤ c) :
    overlaid m a bs c = m.read c := by
  rw [overlaid, if_neg (by omega)]

/-- A store that stays inside memory completes, and leaves every address reading as the bytes laid over memory. -/
theorem storeBytes_overlaid {m : Memory} {a : Nat} {bs : List Byte} (hw : m.wf = true)
    (h : bs = [] ∨ a + bs.length ≤ Config.memSize) :
    ∃ m', storeBytes m a bs = .ok m' ∧ m'.wf = true ∧ ∀ c, m'.read c = overlaid m a bs c :=
  storeBytes_ok hw h

/-! ## Runs of cycles -/

/-- Two runs in a row are one run. -/
theorem Cycles.trans {p : Instr → Prop} {k n : Nat} {s t u : State} (h : Cycles p k s t) (h' : Cycles p n t u) :
    Cycles p (k + n) s u := by
  induction h' with
  | start => exact h
  | cycle i _ hr hp hs ht ih => exact .cycle i (ih h) hr hp hs ht
  | ack _ ha hs ih => exact .ack (ih h) ha hs

/-- A run that meets the stronger condition meets the weaker one. -/
theorem Cycles.mono {p q : Instr → Prop} (hpq : ∀ i, p i → q i) {n : Nat} {s t : State} (h : Cycles p n s t) :
    Cycles q n s t := by
  induction h with
  | start => exact .start _
  | cycle i _ hr hp hs ht ih => exact .cycle i ih hr (hpq i hp) hs ht
  | ack _ ha hs ih => exact .ack ih ha hs

end Sys2Proof.Machine
end

