-- ==== Sys2Proof/Tests/Slice0.lean ====
section
/-! SUPPORT. Tests: the checks of WellFormed refuse an ill-formed term each; every constructor's decoding from a word
written out from the spec's encoding; single steps with the expected results of spec/95_test_vectors.md; and a witness for
the hypotheses of every statement of Certificates/Slice0/Obligations.lean that has hypotheses. -/

namespace Sys2Proof.Tests

open Sys2Proof Sys2Proof.Machine

/-! ## WellFormed -/

/-- R70: set ignored bits are found in each of the four forms. -/
theorem test_canonical_refuses_ignored_bits :
    canonicalOpcode 0x512F = false ∧ canonicalOpcode 0x9125 = false ∧ canonicalOpcode 0x8AB6 = false ∧
      canonicalOpcode 0x8ABE = false := by decide

/-- R70: the canonical forms of the same instructions, and words with no ignored bits. -/
theorem test_canonical_accepts :
    canonicalOpcode 0x5120 = true ∧ canonicalOpcode 0x9120 = true ∧ canonicalOpcode 0x8A06 = true ∧
      canonicalOpcode 0x8A0E = true ∧ canonicalOpcode 0xD125 = true ∧ canonicalOpcode 0x8AB4 = true := by decide

/-- R57: 3584 bytes fit, 3585 do not. -/
theorem test_romFits :
    romFits (List.replicate 3584 0) = true ∧ romFits (List.replicate 3585 0) = false := by
  constructor <;> (unfold romFits; rw [List.length_replicate]; decide)

/-! ## Decode: words written out bit by bit from 30_encoding.md sections 1, 2 and 6 -/

theorem test_decode_control :
    decode 0b0000000011100000 = .known (.cls) ∧
    decode 0b0000000011101110 = .known (.ret) ∧
    decode 0b0001100111000110 = .known (.jump 0x9C6) ∧
    decode 0b0010100111000110 = .known (.call 0x9C6) ∧
    decode 0b1011100111000110 = .known (.jumpv0 0x9C6) ∧
    decode 0b0011101011000101 = .known (.se 0xA 0xC5) ∧
    decode 0b0100101011000101 = .known (.sne 0xA 0xC5) ∧
    decode 0b0101101001100000 = .known (.ser 0xA 0x6) ∧
    decode 0b1001101001100000 = .known (.sner 0xA 0x6) := by decide

theorem test_decode_alu :
    decode 0b0110101011000101 = .known (.ld 0xA 0xC5) ∧
    decode 0b0111101011000101 = .known (.add 0xA 0xC5) ∧
    decode 0b1000101001100000 = .known (.ldr 0xA 0x6) ∧
    decode 0b1000101001100001 = .known (.or 0xA 0x6) ∧
    decode 0b1000101001100010 = .known (.and 0xA 0x6) ∧
    decode 0b1000101001100011 = .known (.xor 0xA 0x6) ∧
    decode 0b1000101001100100 = .known (.addr 0xA 0x6) ∧
    decode 0b1000101001100101 = .known (.subr 0xA 0x6) ∧
    decode 0b1000101000000110 = .known (.shr 0xA) ∧
    decode 0b1000101001100111 = .known (.subnr 0xA 0x6) ∧
    decode 0b1000101000001110 = .known (.shl 0xA) ∧
    decode 0b1100101011000101 = .known (.rnd 0xA 0xC5) := by decide

theorem test_decode_index :
    decode 0b1010100111000110 = .known (.ldi 0x9C6) ∧
    decode 0b1111101000011110 = .known (.addi 0xA) ∧
    decode 0b1111101000101001 = .known (.ldfont 0xA) ∧
    decode 0b1111101000110011 = .known (.ldbcd 0xA) ∧
    decode 0b1111101001010101 = .known (.starr 0xA) ∧
    decode 0b1111101001100101 = .known (.ldarr 0xA) := by decide

theorem test_decode_display :
    decode 0b1101101001101001 = .known (.drw 0xA 0x6 0x9) := by decide

theorem test_decode_keypad :
    decode 0b1110101010011110 = .known (.skp 0xA) ∧
    decode 0b1110101010100001 = .known (.sknp 0xA) ∧
    decode 0b1111101000001010 = .known (.ldk 0xA) := by decide

theorem test_decode_timer :
    decode 0b1111101000000111 = .known (.ldvdt 0xA) ∧
    decode 0b1111101000010101 = .known (.lddtv 0xA) ∧
    decode 0b1111101000011000 = .known (.ldstv 0xA) := by decide

/-- 95_test_vectors.md section 2.1: words that are Unknown. -/
theorem test_decode_unknown :
    decode 0x0000 = .unknown 0x0000 ∧ decode 0x00E1 = .unknown 0x00E1 ∧ decode 0x0FFF = .unknown 0x0FFF ∧
    decode 0x8AB8 = .unknown 0x8AB8 ∧ decode 0x8ABF = .unknown 0x8ABF ∧ decode 0xE19F = .unknown 0xE19F ∧
    decode 0xF100 = .unknown 0xF100 ∧ decode 0xF175 = .unknown 0xF175 := by decide

theorem test_decodeTableWord :
    decodeTableWord 16 0x00E0 = some .cls ∧ decodeTableWord 16 0x3A42 = some (.se 0xA 0x42) ∧
    decodeTableWord 16 0x0000 = none ∧ decodeTableWord 8 0x3A42 = none := by decide

/-! ## Single steps: expected results from 95_test_vectors.md -/

/-- The reset state with an opcode at `PC` = 0x200 and a queued cycle: no key pressed, random byte 0xA7. -/
def placed (op : Nat) : State :=
  { State.reset.withFetchWord 16 op with host := [.cycle (Vector.replicate 16 false) 0xA7] }

/-- Registers set one by one. -/
def withRegs (l : List (Reg × Byte)) (s : State) : State := l.foldl (fun t p => t.setV p.1 p.2) s

/-- Keys pressed in the queued cycle. -/
def withKeys (l : List (Fin 16)) (s : State) : State :=
  { s with host := [.cycle (l.foldl (fun k i => k.set i.val true i.isLt) (Vector.replicate 16 false)) 0] }

/-- Whether one step answers a next state that passes a check. -/
def after (s : State) (check : State → Bool) : Bool :=
  match step s with
  | .next t => check t
  | .fault _ => false
  | .refused _ => false

/-- Whether a state has halted with this record. -/
def haltedWith (kind : FaultKind) (pc op : Word) (addr : Option Word) (t : State) : Bool :=
  t.status == .halted && t.fault == some { kind := kind, pc := pc, opcode := some op, addr := addr }

/-- 2.3 -/
theorem test_step_ret :
    after ((placed 0x00EE).setStack [0x206])
      (fun t => t.pc == 0x206 && t.stack == []) = true := by decide

/-- P7 -/
theorem test_step_ret_empty :
    after (placed 0x00EE)
      (fun t => haltedWith .stackUnderflow 0x200 0x00EE none t) = true := by decide

/-- 2.3 -/
theorem test_step_jump :
    after (placed 0x1ABC)
      (fun t => t.pc == 0xABC) = true := by decide

/-- 2.3 -/
theorem test_step_call :
    after (placed 0x2ABC)
      (fun t => t.pc == 0xABC && t.stack == [0x202]) = true := by decide

/-- 2.3 -/
theorem test_step_call_full :
    after ((placed 0x2ABC).setStack (List.replicate 16 0x202))
      (fun t => haltedWith .stackOverflow 0x200 0x2ABC none t) = true := by decide

/-- 2.3 -/
theorem test_step_jumpv0 :
    after (withRegs [(0, 0xFF)] (placed 0xBFFF))
      (fun t => t.pc == 0x10FE && t.status == .running) = true := by decide

/-- 2.3 -/
theorem test_step_se :
    after (withRegs [(0xA, 0x42)] (placed 0x3A42))
      (fun t => t.pc == 0x204) = true := by decide

/-- 2.3 -/
theorem test_step_se_not :
    after (withRegs [(0xA, 0x41)] (placed 0x3A42))
      (fun t => t.pc == 0x202) = true := by decide

/-- 2.3 -/
theorem test_step_sne :
    after (withRegs [(0xA, 0x41)] (placed 0x4A42))
      (fun t => t.pc == 0x204) = true := by decide

/-- 2.3 -/
theorem test_step_sne_not :
    after (withRegs [(0xA, 0x42)] (placed 0x4A42))
      (fun t => t.pc == 0x202) = true := by decide

/-- 2.3, ignored bits set -/
theorem test_step_ser :
    after (withRegs [(1, 7), (2, 7)] (placed 0x512F))
      (fun t => t.pc == 0x204) = true := by decide

/-- 2.3 -/
theorem test_step_ser_not :
    after (withRegs [(1, 7), (2, 8)] (placed 0x5120))
      (fun t => t.pc == 0x202) = true := by decide

/-- 2.3 -/
theorem test_step_sner :
    after (withRegs [(1, 7), (2, 8)] (placed 0x9120))
      (fun t => t.pc == 0x204) = true := by decide

/-- 2.3 -/
theorem test_step_sner_not :
    after (withRegs [(1, 7), (2, 7)] (placed 0x9120))
      (fun t => t.pc == 0x202) = true := by decide

/-- 2.4 -/
theorem test_step_ld :
    after (placed 0x63AB)
      (fun t => t.reg 3 == 0xAB && t.reg 0xF == 0 && t.pc == 0x202) = true := by decide

/-- 2.4 -/
theorem test_step_add_carry :
    after (withRegs [(0, 0x01)] (placed 0x70FF))
      (fun t => t.reg 0 == 0x00 && t.reg 0xF == 1) = true := by decide

/-- 2.4, D3 -/
theorem test_step_add_vf :
    after (withRegs [(0xF, 0x01)] (placed 0x7F01))
      (fun t => t.reg 0xF == 0) = true := by decide

/-- 2.4 -/
theorem test_step_ldr :
    after (withRegs [(0xA, 1), (0xB, 0x99)] (placed 0x8AB0))
      (fun t => t.reg 0xA == 0x99 && t.reg 0xB == 0x99) = true := by decide

/-- 2.4 -/
theorem test_step_or :
    after (withRegs [(0xA, 0xF0), (0xB, 0x0F), (0xF, 0x5A)] (placed 0x8AB1))
      (fun t => t.reg 0xA == 0xFF && t.reg 0xF == 0x5A) = true := by decide

/-- 2.4 -/
theorem test_step_and :
    after (withRegs [(0xA, 0xF0), (0xB, 0x3C)] (placed 0x8AB2))
      (fun t => t.reg 0xA == 0x30) = true := by decide

/-- 2.4 -/
theorem test_step_xor :
    after (withRegs [(0xA, 0xFF), (0xB, 0x0F)] (placed 0x8AB3))
      (fun t => t.reg 0xA == 0xF0) = true := by decide

/-- 2.4 -/
theorem test_step_addr_double :
    after (withRegs [(1, 0x90)] (placed 0x8114))
      (fun t => t.reg 1 == 0x20 && t.reg 0xF == 1) = true := by decide

/-- 2.4 -/
theorem test_step_addr_vf_source :
    after (withRegs [(1, 0xFF), (0xF, 0x01)] (placed 0x81F4))
      (fun t => t.reg 1 == 0x00 && t.reg 0xF == 1) = true := by decide

/-- 2.4 -/
theorem test_step_subr_wraps :
    after (withRegs [(0xA, 3), (0xB, 5)] (placed 0x8AB5))
      (fun t => t.reg 0xA == 0xFE && t.reg 0xF == 0) = true := by decide

/-- 2.4, strict -/
theorem test_step_subr_equal :
    after (withRegs [(0xA, 5), (0xB, 5), (0xF, 1)] (placed 0x8AB5))
      (fun t => t.reg 0xA == 0 && t.reg 0xF == 0) = true := by decide

/-- 2.4 -/
theorem test_step_subnr :
    after (withRegs [(0xA, 3), (0xB, 5)] (placed 0x8AB7))
      (fun t => t.reg 0xA == 2 && t.reg 0xB == 5 && t.reg 0xF == 1) = true := by decide

/-- 2.4, y ignored -/
theorem test_step_shr :
    after (withRegs [(0xA, 0x05), (0xB, 0xFF)] (placed 0x8AB6))
      (fun t => t.reg 0xA == 0x02 && t.reg 0xF == 1 && t.reg 0xB == 0xFF) = true := by decide

/-- 2.4, D3 -/
theorem test_step_shr_vf :
    after (withRegs [(0xF, 0x02)] (placed 0x8F06))
      (fun t => t.reg 0xF == 0) = true := by decide

/-- 2.4 -/
theorem test_step_shl :
    after (withRegs [(0xA, 0x81)] (placed 0x8A0E))
      (fun t => t.reg 0xA == 0x02 && t.reg 0xF == 1) = true := by decide

/-- 2.4, rnd 0xA7 -/
theorem test_step_rnd :
    after (placed 0xC10F)
      (fun t => t.reg 1 == 0x07) = true := by decide

/-- 2.5 -/
theorem test_step_ldi :
    after (placed 0xAFFF)
      (fun t => t.i == 0x0FFF) = true := by decide

/-- 2.5, D4 -/
theorem test_step_addi :
    after (withRegs [(1, 0xFF)] ((placed 0xF11E).setI 0xFF80))
      (fun t => t.i == 0x007F && t.reg 0xF == 0) = true := by decide

/-- 2.5 -/
theorem test_step_ldfont :
    after (withRegs [(1, 0x0F)] (placed 0xF129))
      (fun t => t.i == 0x004B) = true := by decide

/-- 2.5, D6 -/
theorem test_step_ldfont_range :
    after (withRegs [(1, 0x10)] (placed 0xF129))
      (fun t => haltedWith .operandRange 0x200 0xF129 none t) = true := by decide

/-- 2.5 -/
theorem test_step_ldbcd :
    after (withRegs [(0, 0xEA)] ((placed 0xF033).setI 0x300))
      (fun t => t.mem.read 0x300 == 2 && t.mem.read 0x301 == 3 && t.mem.read 0x302 == 4 && t.mem.read 0x303 == 0 && t.i == 0x300) = true := by decide

/-- 2.5 -/
theorem test_step_ldbcd_range :
    after ((placed 0xF033).setI 0xFFE)
      (fun t => haltedWith .memOutOfRange 0x200 0xF033 (some 0x1000) t) = true := by decide

/-- 2.5 -/
theorem test_step_starr :
    after (withRegs [(0, 0x11), (1, 0x22), (2, 0x33), (3, 0x44)] ((placed 0xF355).setI 0x300))
      (fun t => t.mem.read 0x300 == 0x11 && t.mem.read 0x303 == 0x44 && t.mem.read 0x304 == 0 && t.i == 0x300) = true := by decide

/-- 2.5 -/
theorem test_step_starr_range :
    after ((placed 0xFF55).setI 0xFF1)
      (fun t => haltedWith .memOutOfRange 0x200 0xFF55 (some 0x1000) t) = true := by decide

/-- 2.5, G2 -/
theorem test_step_ldarr_font :
    after (withRegs [(3, 0x55)] (placed 0xF265))
      (fun t => t.reg 0 == 0xF0 && t.reg 1 == 0x90 && t.reg 2 == 0x90 && t.reg 3 == 0x55) = true := by decide

/-- 2.5 -/
theorem test_step_ldarr_range :
    after ((placed 0xF165).setI 0xFFF)
      (fun t => haltedWith .memOutOfRange 0x200 0xF165 (some 0x1000) t) = true := by decide

/-- 2.6 -/
theorem test_step_cls :
    after ((placed 0x00E0).setDisplay (setPixel clearScreen 3 4 true))
      (fun t => !pixel t.fb 3 4 && t.changed) = true := by decide

/-- P4 -/
theorem test_step_drw_corner :
    after (withRegs [(0, 63), (1, 31)] (((placed 0xD012).setMem (((placed 0xD012).mem.write 0x300 0xC0).write 0x301 0xC0)).setI 0x300))
      (fun t => pixel t.fb 31 63 && pixel t.fb 31 0 && pixel t.fb 0 63 && pixel t.fb 0 0 && !pixel t.fb 0 1 && t.reg 0xF == 0 && t.changed) = true := by decide

/-- 2.6 -/
theorem test_step_drw_collision :
    after (((placed 0xD011).setDisplay (setPixel clearScreen 0 0 true)).setMem ((placed 0xD011).mem.write 0 0xC0))
      (fun t => !pixel t.fb 0 0 && pixel t.fb 0 1 && t.reg 0xF == 1) = true := by decide

/-- 2.7 -/
theorem test_step_skp :
    after (withRegs [(1, 0xA)] (withKeys [0xA] (placed 0xE19E)))
      (fun t => t.pc == 0x204) = true := by decide

/-- 2.7, D5 -/
theorem test_step_skp_range :
    after (withRegs [(1, 0x10)] (placed 0xE19E))
      (fun t => haltedWith .operandRange 0x200 0xE19E none t) = true := by decide

/-- 2.7 -/
theorem test_step_sknp :
    after (withRegs [(1, 0xA)] (withKeys [0xA] (placed 0xE1A1)))
      (fun t => t.pc == 0x202) = true := by decide

/-- 2.7 -/
theorem test_step_sknp_up :
    after (withRegs [(1, 0xA)] (placed 0xE1A1))
      (fun t => t.pc == 0x204) = true := by decide

/-- 2.7, D7 -/
theorem test_step_ldk_two_keys :
    after (withKeys [0xA, 3] (placed 0xF30A))
      (fun t => t.reg 3 == 3 && t.pc == 0x202) = true := by decide

/-- 2.7: the timers have ticked -/
theorem test_step_ldk_waits :
    after ((placed 0xF30A).setDt 5)
      (fun t => t.reg 3 == 0 && t.pc == 0x200 && t.dt == 4) = true := by decide

/-- 2.8 -/
theorem test_step_ldvdt :
    after ((placed 0xF107).setDt 5)
      (fun t => t.reg 1 == 4 && t.dt == 4) = true := by decide

/-- 2.8 -/
theorem test_step_lddtv :
    after (withRegs [(1, 3)] ((placed 0xF115).setDt 9))
      (fun t => t.dt == 3) = true := by decide

/-- 2.8 -/
theorem test_step_ldstv :
    after (withRegs [(1, 2)] (placed 0xF118))
      (fun t => t.st == 2 && t.tone) = true := by decide

/-- 2.2 -/
theorem test_cycle_ticks :
    after (((placed 0x6000).setDt 5).setSt 1)
      (fun t => t.dt == 4 && t.st == 0 && !t.tone) = true := by decide

/-- 2.2 -/
theorem test_cycle_odd_pc :
    after ((State.reset.setPc 0x201).setMem ((State.reset.mem.write 0x201 0x60).write 0x202 0x07))
      (fun t => t.reg 0 == 7 && t.pc == 0x203) = true := by decide

/-- 2.2 -/
theorem test_cycle_last_pc :
    after ((State.reset.setPc 0xFFE).setMem ((State.reset.mem.write 0xFFE 0x60).write 0xFFF 0x07))
      (fun t => t.reg 0 == 7 && t.pc == 0x1000 && t.status == .running) = true := by decide

/-- 2.2, D23 -/
theorem test_cycle_fetch_fff :
    after (State.reset.setPc 0xFFF)
      (fun t => t.fault == some { kind := .memOutOfRange, pc := 0xFFF, opcode := none, addr := some 0x1000 }) = true := by decide

/-- 2.9 -/
theorem test_cycle_unknown :
    after (placed 0x0000)
      (fun t => haltedWith .unknownOpcode 0x200 0x0000 none t) = true := by decide

/-- 2.9: the quit is seen before the fetch -/
theorem test_host_quit :
    after ({ State.reset.setPc 0x1000 with host := [.quit] })
      (fun t => t.status == .stopped && t.pc == 0x1000 && t.fault == none) = true := by decide

/-- 70_reset_and_hazards.md R190 -/
theorem test_host_reset :
    after ({ State.reset.setPc 0x1000 with host := [.reset [0x60, 0x05]], status := .stopped })
      (fun t => t.status == .running && t.pc == 0x200 && t.mem.read 0x200 == 0x60 && t.mem.read 0x201 == 0x05 && t.mem.read 0 == 0xF0) = true := by decide

/-! ## Witnesses: a state that meets the hypotheses of each statement, for each of its clauses -/

/-- A running state with the two bytes of an opcode at its `PC`, whose next input is a cycle. -/
theorem witness_running (op : Nat) : (placed op).cycleNext := rfl

theorem witness_MemoryAccessIsChecked :
    (0xFFF < 4096 ∧ State.reset.mem.wf = true) ∧ 4096 ≤ 0x1000 := by decide

theorem witness_CanonicalMemoriesAreEqual :
    Memory.wf [(0x300, 7)] = true ∧ ∀ a, Memory.read [(0x300, 7)] a = Memory.read [(0x300, 7)] a :=
  ⟨by decide, fun _ => rfl⟩

theorem witness_FetchUnit :
    ((State.reset.setPc 0xFFE).pc.toNat ≤ 0xFFE) ∧
    (0xFFF ≤ (State.reset.setPc 0xFFF).pc.toNat ∧ (State.reset.setPc 0xFFF).status = .running ∧
      (State.reset.setPc 0xFFF).cycleNext) ∧
    (0xFFF ≤ (State.reset.setPc 0x1000).pc.toNat ∧ (State.reset.setPc 0x1000).status = .running ∧
      (State.reset.setPc 0x1000).cycleNext) :=
  ⟨by decide, ⟨by decide, rfl, rfl⟩, ⟨by decide, rfl, rfl⟩⟩

theorem witness_UnknownOpcodeHalts :
    State.reset.status = .running ∧ State.reset.cycleNext ∧
      fetch State.reset = .ok (0x0000, State.reset.setPc 0x202) ∧ decode 0x0000 = .unknown 0x0000 :=
  ⟨rfl, rfl, rfl, by decide⟩

theorem witness_UnknownOpcodeHalts_halted :
    ∃ u, State.reset.status = .running ∧ State.reset.cycleNext ∧ step State.reset = .next u ∧
      HaltedBy .unknownOpcode u :=
  ⟨_, rfl, rfl, rfl, rfl, _, rfl, rfl⟩

theorem witness_StepRunsDecodedInstruction :
    (placed 0x6005).status = .running ∧ (placed 0x6005).cycleNext ∧ (placed 0x6005).pc.toNat ≤ 0xFFE ∧
      decode (opcodeOfBytes ((placed 0x6005).mem.read 0x200) ((placed 0x6005).mem.read 0x201)) = .known (.ld 0 5) :=
  ⟨rfl, rfl, by decide, by decide⟩

theorem witness_EveryStepAnswers_refused :
    ({ State.reset with host := [.reset (List.replicate 3585 0)] } : State).nextEvent =
      .reset (List.replicate 3585 0) ∧ 3584 < (List.replicate 3585 (0 : Byte)).length :=
  ⟨rfl, by rw [List.length_replicate]; decide⟩

/-- RET on an empty stack: a cycle that halts, for each hypothesis of the statement. -/
theorem witness_FaultRecordNamesInstruction :
    ∃ t u, (placed 0x00EE).status = .running ∧ (placed 0x00EE).cycleNext ∧
      fetch (placed 0x00EE) = .ok (0x00EE, t) ∧ decode 0x00EE = .known .ret ∧
      step (placed 0x00EE) = .next u ∧ u.status = .halted :=
  ⟨_, _, rfl, rfl, rfl, by decide, rfl, rfl⟩

theorem witness_MemoryFaultAddress :
    ((1 : Fin 16) ≠ 0 ∧ 4096 < (State.reset.setI 0x1000).i.toNat + (1 : Fin 16).val) ∧
    (4096 ≤ (State.reset.setI 0xFFF).i.toNat + (1 : Reg).val) ∧ (4096 ≤ (State.reset.setI 0x1000).i.toNat + (0 : Reg).val) ∧
    4096 ≤ (State.reset.setI 0xFFE).i.toNat + 2 := by decide

/-- A quit; a fault; a reset of a machine that was not running. -/
theorem witness_RunEndsOnlyByFaultOrQuit :
    (∃ t, step { State.reset with host := [.quit] } = .next t ∧ State.reset.status = .running ∧ t.status = .stopped) ∧
    (∃ t, step State.reset = .next t ∧ State.reset.status = .running ∧ t.status = .halted) ∧
    (∃ t, step { State.reset with status := .stopped, host := [.reset []] } = .next t ∧ t.status ≠ .stopped) :=
  ⟨⟨_, rfl, rfl, rfl⟩, ⟨_, rfl, rfl, rfl⟩, ⟨_, rfl, Status.noConfusion⟩⟩

theorem witness_StoppedMachineKeepsState :
    (({ State.reset with status := .stopped } : State).status ≠ .running ∧
      ({ State.reset with status := .stopped } : State).cycleNext) ∧
    (({ State.reset with status := .halted, host := [.quit] } : State).status ≠ .running ∧
      ({ State.reset with status := .halted, host := [.quit] } : State).nextEvent = .quit) :=
  ⟨⟨by simp, rfl⟩, ⟨by simp, rfl⟩⟩

theorem witness_HaltedUntilReset :
    ({ State.reset with status := .halted, host := [.quit, .renderAck] } : State).status = .halted ∧
      ∀ e ∈ ({ State.reset with status := .halted, host := [.quit, .renderAck] } : State).host,
        ∀ rom, e ≠ .reset rom :=
  ⟨rfl, by simp⟩

theorem witness_QuitStops :
    ({ State.reset with host := [.quit] } : State).status = .running ∧
      ({ State.reset with host := [.quit] } : State).nextEvent = .quit := ⟨rfl, rfl⟩

theorem witness_RenderAckClearsChanged :
    ({ State.reset with changed := true, host := [.renderAck] } : State).nextEvent = .renderAck := rfl

theorem witness_HostResetRestarts :
    (({ State.reset with host := [.reset (List.replicate 3584 1)] } : State).nextEvent = .reset (List.replicate 3584 1) ∧
      (List.replicate 3584 (1 : Byte)).length ≤ 3584) ∧
    (({ State.reset with host := [.reset (List.replicate 3585 1)] } : State).nextEvent = .reset (List.replicate 3585 1) ∧
      3584 < (List.replicate 3585 (1 : Byte)).length) :=
  ⟨⟨rfl, by rw [List.length_replicate]⟩, ⟨rfl, by rw [List.length_replicate]; decide⟩⟩

/-- The reset state meets the invariant. -/
theorem reset_inv : State.reset.Inv where
  mem_wf := rfl
  depth_le := Nat.zero_le _
  fault_iff := by simp [State.reset]
  pc_le _ := show (0x200#16).toNat ≤ 0x10FE by decide
  return_le _ w hw := by cases hw

theorem witness_StepKeepsInv : ∃ t, State.reset.Inv ∧ step State.reset = .next t := ⟨_, reset_inv, rfl⟩

theorem witness_RetReturns :
    (State.reset.setStack [0x206]).stack = 0x206 :: [] ∧ State.reset.stack = [] := ⟨rfl, rfl⟩

theorem witness_CallPushes :
    (State.reset.setStack (List.replicate 15 0x202)).stack.length < 16 ∧
      (State.reset.setStack (List.replicate 16 0x202)).stack.length = 16 := ⟨by simp, by simp⟩

theorem witness_TimerInstructions : ∃ t, exec .cls State.reset = .next t ∧ t.status ≠ .halted :=
  ⟨_, rfl, Status.noConfusion⟩

/-- LDDTV V0, LD V1, LDVDT V1 (or LDSTV V0, LD V1) in memory from 0x200 on, V0 = 9, no input queued. -/
def timerProgram (op : Nat) : State :=
  (State.reset.setV 0 9).setMem
    ((((((State.reset.withFetchWord 16 op).mem.write 0x202 0x61).write 0x203 0x05).write 0x204 0xF1).write 0x205 0x07))

/-- What the machine's step leaves, for states whose step answers a next state. -/
def stepped (s : State) : State :=
  match step s with
  | .next t => t
  | .fault _ => s
  | .refused _ => s

/-- The write, one further cycle, and the read. -/
theorem witness_TimerReadLag :
    (timerProgram 0xF015).runsNext (.lddtv 0) ∧ step (timerProgram 0xF015) = .next (stepped (timerProgram 0xF015)) ∧
      Cycles (fun i => ∀ z, i ≠ .lddtv z) 1 (stepped (timerProgram 0xF015)) (stepped (stepped (timerProgram 0xF015))) ∧
      (stepped (stepped (timerProgram 0xF015))).runsNext (.ldvdt 1) :=
  ⟨⟨rfl, rfl, 0xF015, _, rfl, by decide⟩, rfl,
    .cycle (.ld 1 5) (.start _) ⟨rfl, rfl, 0x6105, _, rfl, by decide⟩ (fun _ h => Instr.noConfusion h) rfl rfl,
    ⟨rfl, rfl, 0xF107, _, rfl, by decide⟩⟩

theorem witness_TimerReadLag_sound :
    (timerProgram 0xF018).runsNext (.ldstv 0) ∧ step (timerProgram 0xF018) = .next (stepped (timerProgram 0xF018)) ∧
      Cycles (fun i => ∀ z, i ≠ .ldstv z) 1 (stepped (timerProgram 0xF018)) (stepped (stepped (timerProgram 0xF018))) :=
  ⟨⟨rfl, rfl, 0xF018, _, rfl, by decide⟩, rfl,
    .cycle (.ld 1 5) (.start _) ⟨rfl, rfl, 0x6105, _, rfl, by decide⟩ (fun _ h => Instr.noConfusion h) rfl rfl⟩

theorem witness_FontAddress :
    ((State.reset.setV 1 0x0F).reg 1).toNat < 16 ∧ 16 ≤ ((State.reset.setV 1 0x10).reg 1).toNat := by decide

theorem witness_BcdDigitsStored :
    State.reset.mem.wf = true ∧ (State.reset.setI 0xFFD).i.toNat ≤ 0xFFD ∧ 0xFFD < (State.reset.setI 0xFFE).i.toNat := by
  decide

theorem witness_RegistersStored :
    State.reset.mem.wf = true ∧ (State.reset.setI 0xFF0).i.toNat + (0xF : Reg).val ≤ 0xFFF ∧
      0xFFF < (State.reset.setI 0xFF1).i.toNat + (0xF : Reg).val := by decide

theorem witness_RegistersLoaded :
    (State.reset.setI 0xFFF).i.toNat + (0 : Reg).val ≤ 0xFFF ∧ 0xFFF < (State.reset.setI 0x1000).i.toNat + (0 : Reg).val := by
  decide

theorem witness_StoreThenLoadRestores :
    State.reset.mem.wf = true ∧ (State.reset.setI 0x300).i.toNat + (3 : Reg).val ≤ 0xFFF := by decide

/-- At the last two bytes of memory: registers 1 and 2 of V0 to V2, and the last two digits. -/
theorem witness_StoreToCodeIsFetched :
    State.reset.mem.wf = true ∧ ((State.reset.setI 0xFFD).setPc 0xFFE).pc.toNat ≤ 0xFFE ∧
    ((State.reset.setI 0xFFD).setPc 0xFFE).i.toNat + (2 : Reg).val ≤ 0xFFF ∧
    ((2 : Reg).val = (1 : Reg).val + 1 ∧ (2 : Reg) ≤ 2 ∧
      ((State.reset.setI 0xFFD).setPc 0xFFE).pc.toNat = ((State.reset.setI 0xFFD).setPc 0xFFE).i.toNat + (1 : Reg).val) ∧
    ((State.reset.setI 0xFFD).setPc 0xFFE).i.toNat ≤ 0xFFD := by decide

theorem witness_DrawXorsSprite :
    ((0 : Fin 16) = 0) ∧ (State.reset.setI 0xFF1).i.toNat + (0xF : Fin 16).val ≤ 4096 := by decide

theorem witness_DrawTwiceRestores :
    (0 : Reg) ≠ Reg.vf ∧ (1 : Reg) ≠ Reg.vf ∧ (State.reset.setI 0xFF1).i.toNat + (0xF : Fin 16).val ≤ 4096 := by decide

theorem witness_SkipsOnKey :
    ((placed 0xE19E).host = .cycle (Vector.replicate 16 false) 0xA7 :: []) ∧
    ((State.reset.setV 1 0xF).reg 1).toNat = (0xF : Fin 16).val ∧ 16 ≤ ((State.reset.setV 1 0x10).reg 1).toNat :=
  ⟨rfl, by decide, by decide⟩

theorem witness_KeyWait :
    ((withKeys [3, 0xA] State.reset).keysNow[(3 : Fin 16)] = true ∧
      ∀ j : Fin 16, j < 3 → (withKeys [3, 0xA] State.reset).keysNow[j] = false) ∧
    ∀ k : Fin 16, (withKeys [] State.reset).keysNow[k] = false := by decide

theorem witness_EncodeUndoesDecode :
    decode 0x5120 = .known (.ser 1 2) ∧ canonicalOpcode 0x5120 = true := by decide

theorem witness_GroupZero :
    (0x00E1 : Word).toNat < 0x1000 ∧ (0x00E1 : Word) ≠ 0x00E0 ∧ (0x00E1 : Word) ≠ 0x00EE := by decide

theorem witness_DecoderMatchesTable :
    decode 0x3A42 = .known (.se 0xA 0x42) ∧ OpcodeRow.mk "SE" 0x3000 0xF000 ∈ opcodeRows ∧
      (OpcodeRow.mk "SE" 0x3000 0xF000).selects 0x3A42 = true := by decide

/-- One instruction of each frame, and a state in which it does not fault. -/
theorem witness_frames :
    (∃ t, exec (.add 1 2) State.reset = .next t ∧ t.status ≠ .halted) ∧
    (∃ t, exec (.ld 1 2) State.reset = .next t ∧ Instr.ld 1 2 ∈ [Instr.ld 1 2]) ∧
    (∃ t, exec (.call 0x300) State.reset = .next t ∧ State.reset.stack.length < 16) ∧
    (∃ t, exec .ret (State.reset.setStack [0x206]) = .next t ∧ (State.reset.setStack [0x206]).stack ≠ []) ∧
    (∃ t, exec (.ldfont 1) State.reset = .next t ∧ (State.reset.reg 1).toNat < 16) ∧
    (∃ t, exec (.starr 1) State.reset = .next t ∧ State.reset.mem.wf = true ∧
      State.reset.i.toNat + (1 : Reg).val ≤ 0xFFF) ∧
    (∃ t, exec (.ldbcd 1) State.reset = .next t ∧ State.reset.i.toNat ≤ 0xFFD) ∧
    (∃ t, exec (.ldarr 1) State.reset = .next t ∧ State.reset.i.toNat + (1 : Reg).val ≤ 0xFFF) ∧
    (∃ t, exec (.skp 1) State.reset = .next t ∧ Instr.skp 1 ∈ [Instr.skp 1, Instr.sknp 1] ∧
      (State.reset.reg 1).toNat < 16) ∧
    (∃ t, exec (.drw 0 1 2) State.reset = .next t ∧ State.reset.i.toNat + (2 : Fin 16).val ≤ 4096) :=
  ⟨⟨_, rfl, Status.noConfusion⟩, ⟨_, rfl, by decide⟩, ⟨_, rfl, by decide⟩, ⟨_, rfl, by decide⟩, ⟨_, rfl, by decide⟩,
    ⟨_, rfl, by decide⟩, ⟨_, rfl, by decide⟩, ⟨_, rfl, by decide⟩, ⟨_, rfl, by decide, by decide⟩, ⟨_, rfl, by decide⟩⟩

theorem witness_inputs :
    Instr.readsKeys (.rnd 1 2) = false ∧ Instr.readsRandom (.skp 1) = false ∧
      (∃ t, exec (.rnd 1 2) { State.reset with host := [.cycle (Vector.replicate 16 false) 7] } = .next t ∧
        t.status ≠ .halted) ∧
      ∃ t, exec (.skp 1) { State.reset with host := [.cycle (Vector.replicate 16 false) 7] } = .next t ∧
        t.status ≠ .halted :=
  ⟨rfl, rfl, ⟨_, rfl, Status.noConfusion⟩, ⟨_, rfl, Status.noConfusion⟩⟩

theorem witness_ChangedHasNoInfluence : ∃ t, exec .cls State.reset = .next t ∧ t.status ≠ .halted :=
  ⟨_, rfl, Status.noConfusion⟩

end Sys2Proof.Tests
end

section
/-! The memory obligations (spec/20_memory.md), from the laws of the checked accesses. -/

namespace Sys2Proof.Machine

/-- R43, below `MEM_SIZE`: the write answers a memory that differs at the written address only. -/
theorem memWrite_touches_only {m : Memory} {a : Nat} (b : Byte) (ha : a < Config.memSize) (hw : m.wf = true) :
    ∃ m' : Memory, memWrite m a b = .ok m' ∧ m'.read a = b ∧ ∀ c, c ≠ a → m'.read c = m.read c := by
  refine ⟨m.write a b, memWrite_ok ha, ?_, fun c hc => ?_⟩
  · rw [Memory.read_write hw, if_pos rfl]
  · rw [Memory.read_write hw, if_neg hc]

/-- Settles O1: the checked accesses on either side of `MEM_SIZE`. -/
theorem memoryAccessIsChecked : Obligations.MemoryAccessIsChecked := by
  intro m a b
  refine ⟨fun ha => ?below_read, fun ha => ?outside, fun ha hw => ?below_write⟩
  case below_read => exact memRead_ok ha
  case outside => exact ⟨memRead_error ha, memWrite_error ha⟩
  case below_write => exact memWrite_touches_only b ha hw

end Sys2Proof.Machine
end

section
/-! The fields of an opcode (spec/30_encoding.md R61) as arithmetic on its value, and the decoder in group 0 (R65). -/

namespace Sys2Proof

theorem fieldG_eq (op : Word) : fieldG op = op.toNat / 4096 := by
  have hop := op.isLt
  rw [fieldG, slice]
  omega

theorem fieldX_val (op : Word) : (fieldX op).val = op.toNat / 256 % 16 := rfl

theorem fieldY_val (op : Word) : (fieldY op).val = op.toNat / 16 % 16 := rfl

theorem fieldN_val (op : Word) : (fieldN op).val = op.toNat % 16 := by
  simp [fieldN, slice]

theorem fieldKK_toNat (op : Word) : (fieldKK op).toNat = op.toNat % 256 := by
  simp [fieldKK, slice]

theorem fieldNNN_toNat (op : Word) : (fieldNNN op).toNat = op.toNat % 4096 := by
  simp [fieldNNN, slice]

theorem fieldG_lt (op : Word) : fieldG op < 16 := slice_lt op 15 12

theorem fieldG_eq_zero_iff (op : Word) : fieldG op = 0 ↔ op.toNat < 0x1000 := by
  rw [fieldG_eq]
  omega

theorem decode_of_fieldG_zero {op : Word} (h : fieldG op = 0) : decode op = decodeGroup0 op := by
  simp only [decode, h]

/-- R65: the second level of group 0 knows two opcodes only. -/
theorem decodeGroup0_unknown {op : Word} (hcls : op ≠ 0x00E0) (hret : op ≠ 0x00EE) :
    decodeGroup0 op = .unknown op := by
  rw [decodeGroup0, if_neg hcls, if_neg hret]

/-- Settles O45: each field is a quotient and remainder of the opcode's value, and these add up as R61 says. -/
theorem opcodeFields : Obligations.OpcodeFields := by
  intro op
  rw [fieldX_val, fieldY_val, fieldN_val, fieldKK_toNat, fieldNNN_toNat]
  refine ⟨?whole, fieldG_lt op, ?kk, ?nnn⟩
  case whole =>
    rw [fieldG_eq]
    omega
  case kk => omega
  case nnn => omega

/-- Settles O49: an opcode below 0x1000 has group nibble 0, where the whole opcode decides. -/
theorem groupZero : Obligations.GroupZero := by
  refine ⟨rfl, rfl, fun op hlt hcls hret => ?_⟩
  have hg : fieldG op = 0 := (fieldG_eq_zero_iff op).mpr hlt
  rw [decode_of_fieldG_zero hg, decodeGroup0_unknown hcls hret]

end Sys2Proof
end

section
/-! Control flow (spec/41_control_flow.md): what each transfer does to `PC`, and that none of them touches a register or
faults, but for RET on an empty stack. -/

namespace Sys2Proof.Machine

theorem exec_ret (s : State) : exec .ret s = settle .ret s (s.pop.map fun p => p.2.setPc p.1) := rfl

theorem exec_ret_of_stack_cons {s : State} {w : Word} {rest : List Word} (h : s.stack = w :: rest) :
    exec .ret s = .next ((s.setStack rest).setPc w) := by
  rw [exec_ret, pop_ok h, map_ok, settle_ok]

theorem exec_ret_of_stack_nil {s : State} (h : s.stack = []) :
    exec .ret s = .next (takeFault .stackUnderflow s.ownAddress (some (encode .ret)) s) := by
  rw [exec_ret, pop_error h, map_error, settle_error]

theorem exec_jump (s : State) (nnn : Addr) : exec (.jump nnn) s = .next (s.setPc (zext16 nnn)) := rfl

theorem exec_jumpv0 (s : State) (nnn : Addr) :
    exec (.jumpv0 nnn) s = .next (s.setPc (zext16 nnn + zextByte (s.reg 0))) := rfl

theorem exec_se (s : State) (x : Reg) (kk : Byte) : exec (.se x kk) s = .next (s.skipIf (s.reg x == kk)) := rfl

theorem exec_sne (s : State) (x : Reg) (kk : Byte) : exec (.sne x kk) s = .next (s.skipIf (s.reg x != kk)) := rfl

theorem exec_ser (s : State) (x y : Reg) : exec (.ser x y) s = .next (s.skipIf (s.reg x == s.reg y)) := rfl

theorem exec_sner (s : State) (x y : Reg) : exec (.sner x y) s = .next (s.skipIf (s.reg x != s.reg y)) := rfl

theorem noFault_setPc (s : State) (w : Word) : NoFault s (s.setPc w) := ⟨setPc_status s w, setPc_fault s w⟩

theorem noFault_setStack_setPc (s : State) (l : List Word) (w : Word) : NoFault s ((s.setStack l).setPc w) := by
  constructor
  · rw [setPc_status, setStack_status]
  · rw [setPc_fault, setStack_fault]

theorem noFault_skipIf (s : State) (c : Bool) : NoFault s (s.skipIf c) := ⟨skipIf_status s c, skipIf_fault s c⟩

/-- R103: an address and a byte add without a carry out of 16 bits. -/
theorem zext16_add_zextByte_toNat (nnn : Addr) (b : Byte) :
    (zext16 nnn + zextByte b).toNat = nnn.toNat + b.toNat := by
  have hlt : (zext16 nnn).toNat + (zextByte b).toNat < 2 ^ 16 := by
    rw [zext16_toNat, zextByte_toNat]
    omega
  rw [BitVec.toNat_add_of_lt hlt, zext16_toNat, zextByte_toNat]

/-- R104: an instruction whose meaning is `skipIf c` skips exactly when `p`, the proposition `c` decides, holds. -/
theorem exec_skips_iff {i : Instr} {s : State} {c : Bool} {p : Prop} [Decidable p]
    (hexec : exec i s = .next (s.skipIf c)) (hc : c = true ↔ p) :
    ∃ t : State, exec i s = .next t ∧ t.pc = (if p then s.pc + 2 else s.pc) ∧
      t.reg Reg.vf = s.reg Reg.vf ∧ NoFault s t := by
  have hpc : (s.skipIf c).pc = if p then s.pc + 2 else s.pc := by
    rw [skipIf_pc]
    exact if_congr hc rfl rfl
  exact ⟨_, hexec, hpc, skipIf_reg s c Reg.vf, noFault_skipIf s c⟩

/-- Settles O21: the two cases of the stack, popped or empty. -/
theorem retReturns : Obligations.RetReturns := by
  intro s
  refine ⟨fun w rest hstack => ?popped, fun hstack => ?empty⟩
  case popped =>
    exact ⟨_, exec_ret_of_stack_cons hstack, setPc_pc _ w, setStack_stack s rest, setStack_reg s rest Reg.vf,
      noFault_setStack_setPc s rest w⟩
  case empty => exact ⟨_, exec_ret_of_stack_nil hstack, takeFault_status .., _, takeFault_fault .., rfl⟩

/-- Settles O22: `PC` becomes the zero-extended address. -/
theorem jumpSetsPc : Obligations.JumpSetsPc := fun s nnn =>
  ⟨_, exec_jump s nnn, zext16_toNat nnn, setPc_reg s _ Reg.vf, noFault_setPc s _⟩

/-- Settles O23: the sum stays below 65536, so 16-bit addition is addition of integers. -/
theorem jumpV0AddsV0 : Obligations.JumpV0AddsV0 := fun s nnn =>
  ⟨_, exec_jumpv0 s nnn, zext16_add_zextByte_toNat nnn (s.reg 0), setPc_reg s _ Reg.vf, noFault_setPc s _⟩

/-- Settles O25: each of the four is a `skipIf` on the Boolean form of its condition. -/
theorem skipsOnCompare : Obligations.SkipsOnCompare := by
  intro s x y kk
  refine ⟨?se, ?sne, ?ser, ?sner⟩
  case se => exact exec_skips_iff (exec_se s x kk) beq_iff_eq
  case sne => exact exec_skips_iff (exec_sne s x kk) bne_iff_ne
  case ser => exact exec_skips_iff (exec_ser s x y) beq_iff_eq
  case sner => exact exec_skips_iff (exec_sner s x y) bne_iff_ne

end Sys2Proof.Machine
end

section
/-! Register ALU (spec/42_alu.md): the instructions that write register x and nothing else. -/

namespace Sys2Proof.Machine

theorem exec_ld (s : State) (x : Reg) (kk : Byte) : exec (.ld x kk) s = .next (s.setV x kk) := rfl

theorem exec_ldr (s : State) (x y : Reg) : exec (.ldr x y) s = .next (s.setV x (s.reg y)) := rfl

theorem exec_or (s : State) (x y : Reg) : exec (.or x y) s = .next (s.setV x (s.reg x ||| s.reg y)) := rfl

theorem exec_and (s : State) (x y : Reg) : exec (.and x y) s = .next (s.setV x (s.reg x &&& s.reg y)) := rfl

theorem exec_xor (s : State) (x y : Reg) : exec (.xor x y) s = .next (s.setV x (s.reg x ^^^ s.reg y)) := rfl

theorem exec_rnd (s : State) (x : Reg) (kk : Byte) :
    exec (.rnd x kk) s = .next (s.setV x (s.randomNow &&& kk)) := rfl

theorem setV_reg_same (s : State) (x : Reg) (b : Byte) : (s.setV x b).reg x = b := by
  rw [setV_reg, if_pos rfl]

theorem setV_reg_of_ne {s : State} {x r : Reg} {b : Byte} (h : x ≠ r) : (s.setV x b).reg r = s.reg r := by
  rw [setV_reg, if_neg h.symm]

theorem noFault_setV (s : State) (x : Reg) (b : Byte) : NoFault s (s.setV x b) := ⟨setV_status s x b, setV_fault s x b⟩

/-- R32: a queued cycle brings its own random byte. -/
theorem randomNow_of_host {s : State} {keys : Keys} {rnd : Byte} {rest : List HostEvent}
    (h : s.host = .cycle keys rnd :: rest) : s.randomNow = rnd := by
  rw [State.randomNow, State.nextEvent, h]

theorem and_mask_and_not_mask (b kk : Byte) : b &&& kk &&& ~~~kk = 0 := by
  rw [BitVec.and_assoc, BitVec.and_not_self]
  exact BitVec.and_zero

/-- An instruction whose meaning is `setV x b` leaves `b` in register x, other registers alone, and does not fault. -/
theorem exec_writes_register {i : Instr} {s : State} {x : Reg} {b : Byte} (hexec : exec i s = .next (s.setV x b)) :
    ∃ t : State, exec i s = .next t ∧ t.reg x = b ∧ (x ≠ Reg.vf → t.reg Reg.vf = s.reg Reg.vf) ∧ NoFault s t :=
  ⟨_, hexec, setV_reg_same s x b, setV_reg_of_ne, noFault_setV s x b⟩

/-- `exec_writes_register` for a byte that is given bit by bit. -/
theorem exec_writes_register_bits {i : Instr} {s : State} {x : Reg} {b : Byte} {bit : Nat → Bool}
    (hexec : exec i s = .next (s.setV x b)) (hbit : ∀ k, b.getLsbD k = bit k) :
    ∃ t : State, exec i s = .next t ∧ (∀ k, (t.reg x).getLsbD k = bit k) ∧
      (x ≠ Reg.vf → t.reg Reg.vf = s.reg Reg.vf) ∧ NoFault s t := by
  obtain ⟨t, ht, hx, hvf, hnf⟩ := exec_writes_register hexec
  exact ⟨t, ht, fun k => hx ▸ hbit k, hvf, hnf⟩

/-- Settles O26: LD writes the immediate to register x. -/
theorem loadImmediate : Obligations.LoadImmediate := fun s x kk => exec_writes_register (exec_ld s x kk)

/-- Settles O27: the four are writes of register x, three of them of a byte combined bit by bit. -/
theorem copyAndBitwise : Obligations.CopyAndBitwise := by
  intro s x y
  refine ⟨?ldr, ?or, ?and, ?xor⟩
  case ldr => exact exec_writes_register (exec_ldr s x y)
  case or => exact exec_writes_register_bits (exec_or s x y) fun _ => BitVec.getLsbD_or
  case and => exact exec_writes_register_bits (exec_and s x y) fun _ => BitVec.getLsbD_and
  case xor => exact exec_writes_register_bits (exec_xor s x y) fun _ => BitVec.getLsbD_xor

/-- Settles O31: RND writes the masked byte, which is the host's when one is queued and has no bit outside the mask. -/
theorem randomIsMasked : Obligations.RandomIsMasked := by
  intro s x kk
  obtain ⟨t, ht, hx, hvf, hnf⟩ := exec_writes_register (exec_rnd s x kk)
  refine ⟨t, ht, hx, fun keys rnd rest hhost => ?queued, ?mask, hvf, hnf⟩
  case queued => rw [hx, randomNow_of_host hhost]
  case mask => rw [hx, and_mask_and_not_mask]

end Sys2Proof.Machine
end

section
/-! The index register (spec/43_index_memory.md): the instructions that write `I` and nothing else. -/

namespace Sys2Proof.Machine

theorem exec_ldi (s : State) (nnn : Addr) : exec (.ldi nnn) s = .next (s.setI (zext16 nnn)) := rfl

theorem noFault_setI (s : State) (w : Word) : NoFault s (s.setI w) := ⟨setI_status s w, setI_fault s w⟩

/-- Settles O32: `I` becomes the zero-extended address, which keeps its value. -/
theorem loadIndex : Obligations.LoadIndex := by
  intro s nnn
  have hvalue : (s.setI (zext16 nnn)).i.toNat = nnn.toNat := by
    rw [setI_i, zext16_toNat]
  exact ⟨_, exec_ldi s nnn, hvalue, setI_reg s _ Reg.vf, noFault_setI s _⟩

end Sys2Proof.Machine
end

section
/-! The display (spec/44_display.md): the instruction that writes the framebuffer and `changed`, and nothing else. -/

namespace Sys2Proof.Machine

theorem exec_cls (s : State) : exec .cls s = .next (s.setDisplay clearScreen) := rfl

theorem noFault_setDisplay (s : State) (fb : Framebuffer) : NoFault s (s.setDisplay fb) :=
  ⟨setDisplay_status s fb, setDisplay_fault s fb⟩

/-- Settles O40: CLS installs the clear screen, every pixel of which is 0; installing a framebuffer sets `changed` whatever
it was before. (The name `clearScreen` is the model's own framebuffer.) -/
theorem clearScreen_holds : Obligations.ClearScreen := by
  intro s
  have hpixels : ∀ r c, pixel (s.setDisplay clearScreen).fb r c = false := fun r c => by
    rw [setDisplay_fb, pixel_clearScreen]
  exact ⟨_, exec_cls s, hpixels, setDisplay_changed s _, setDisplay_reg s _ Reg.vf, noFault_setDisplay s _⟩

end Sys2Proof.Machine
end

section
/-! The decoder against the opcode table (spec/30_encoding.md sections 3 and 6). An opcode that selects the row of an
instruction decodes to that instruction with its operands read from the opcode (`decode_of_selects`), and the decoder
answers nothing else (`selects_of_decode`); the statements on encoding follow from these two. -/

namespace Sys2Proof

/-! ## What a row of the table selects -/

theorem selects_iff_toNat {name : String} {value mask op : Word} :
    (OpcodeRow.mk name value mask).selects op = true ↔ (op &&& mask).toNat = value.toNat := by
  rw [OpcodeRow.selects, beq_iff_eq, BitVec.toNat_eq]

theorem selects_F000_iff {name : String} {value op : Word} (hv : value.toNat % 4096 = 0) :
    (OpcodeRow.mk name value 0xF000).selects op = true ↔ fieldG op = value.toNat / 4096 := by
  rw [selects_iff_toNat, and_F000_toNat, fieldG_eq]
  omega

theorem selects_F00F_iff {name : String} {value op : Word} (hv : value.toNat % 4096 < 16) :
    (OpcodeRow.mk name value 0xF00F).selects op = true ↔
      fieldG op = value.toNat / 4096 ∧ slice op 3 0 = value.toNat % 16 := by
  rw [selects_iff_toNat, and_F00F_toNat, fieldG_eq, slice]
  omega

theorem selects_F0FF_iff {name : String} {value op : Word} (hv : value.toNat % 4096 < 256) :
    (OpcodeRow.mk name value 0xF0FF).selects op = true ↔
      fieldG op = value.toNat / 4096 ∧ slice op 7 0 = value.toNat % 256 := by
  rw [selects_iff_toNat, and_F0FF_toNat, fieldG_eq, slice]
  omega

theorem selects_FFFF_iff {name : String} {value op : Word} :
    (OpcodeRow.mk name value 0xFFFF).selects op = true ↔ op = value := by
  rw [OpcodeRow.selects, beq_iff_eq, show (0xFFFF : Word) = BitVec.allOnes 16 from rfl, BitVec.and_allOnes]

/-! ## The second level of the decoder -/

theorem decode_of_group_8 {op : Word} (h : fieldG op = 8) : decode op = decodeGroup8 op := by
  simp only [decode, h]

theorem decode_of_group_E {op : Word} (h : fieldG op = 0xE) : decode op = decodeGroupE op := by
  simp only [decode, h]

theorem decode_of_group_F {op : Word} (h : fieldG op = 0xF) : decode op = decodeGroupF op := by
  simp only [decode, h]

/-- The instruction with every operand read again from its field of an opcode (R61, R62). -/
def Instr.refill (op : Word) : Instr → Instr
  | .cls => .cls
  | .ret => .ret
  | .jump _ => .jump (fieldNNN op)
  | .call _ => .call (fieldNNN op)
  | .se _ _ => .se (fieldX op) (fieldKK op)
  | .sne _ _ => .sne (fieldX op) (fieldKK op)
  | .ser _ _ => .ser (fieldX op) (fieldY op)
  | .ld _ _ => .ld (fieldX op) (fieldKK op)
  | .add _ _ => .add (fieldX op) (fieldKK op)
  | .ldr _ _ => .ldr (fieldX op) (fieldY op)
  | .or _ _ => .or (fieldX op) (fieldY op)
  | .and _ _ => .and (fieldX op) (fieldY op)
  | .xor _ _ => .xor (fieldX op) (fieldY op)
  | .addr _ _ => .addr (fieldX op) (fieldY op)
  | .subr _ _ => .subr (fieldX op) (fieldY op)
  | .shr _ => .shr (fieldX op)
  | .subnr _ _ => .subnr (fieldX op) (fieldY op)
  | .shl _ => .shl (fieldX op)
  | .sner _ _ => .sner (fieldX op) (fieldY op)
  | .ldi _ => .ldi (fieldNNN op)
  | .jumpv0 _ => .jumpv0 (fieldNNN op)
  | .rnd _ _ => .rnd (fieldX op) (fieldKK op)
  | .drw _ _ _ => .drw (fieldX op) (fieldY op) (fieldN op)
  | .skp _ => .skp (fieldX op)
  | .sknp _ => .sknp (fieldX op)
  | .ldvdt _ => .ldvdt (fieldX op)
  | .ldk _ => .ldk (fieldX op)
  | .lddtv _ => .lddtv (fieldX op)
  | .ldstv _ => .ldstv (fieldX op)
  | .addi _ => .addi (fieldX op)
  | .ldfont _ => .ldfont (fieldX op)
  | .ldbcd _ => .ldbcd (fieldX op)
  | .starr _ => .starr (fieldX op)
  | .ldarr _ => .ldarr (fieldX op)

/-- Reading the operands again does not leave the row. -/
theorem tableRow_refill (op : Word) (i : Instr) : tableRow (i.refill op) = tableRow i := by cases i <;> rfl

/-- An opcode that selects the row of an instruction decodes to that instruction, with its own fields as operands. -/
theorem decode_of_selects {op : Word} {i : Instr} (h : (tableRow i).selects op = true) :
    decode op = .known (i.refill op) := by
  cases i
  case cls | ret =>
    rw [selects_FFFF_iff.mp h]
    rfl
  case jump | call | se | sne | ser | ld | add | sner | ldi | jumpv0 | rnd | drw =>
    rw [decode, (selects_F000_iff rfl).mp h]
    rfl
  case ldr | or | and | xor | addr | subr | shr | subnr | shl =>
    obtain ⟨hg, hn⟩ := (selects_F00F_iff (by decide)).mp h
    rw [decode_of_group_8 hg, decodeGroup8, hn]
    rfl
  case skp | sknp =>
    obtain ⟨hg, hk⟩ := (selects_F0FF_iff (by decide)).mp h
    rw [decode_of_group_E hg, decodeGroupE, hk]
    rfl
  case ldvdt | ldk | lddtv | ldstv | addi | ldfont | ldbcd | starr | ldarr =>
    obtain ⟨hg, hk⟩ := (selects_F0FF_iff (by decide)).mp h
    rw [decode_of_group_F hg, decodeGroupF, hk]
    rfl


/-! ## The decoder answers nothing else -/

theorem selects_of_decodeGroup0 {op : Word} {i : Instr} (h : decodeGroup0 op = .known i) :
    (tableRow i).selects op = true := by
  rw [decodeGroup0] at h
  split at h
  · next hop => cases h; exact selects_FFFF_iff.mpr hop
  · split at h
    · next hop => cases h; exact selects_FFFF_iff.mpr hop
    · cases h

theorem selects_of_decodeGroup8 {op : Word} {i : Instr} (hg : fieldG op = 8) (h : decodeGroup8 op = .known i) :
    (tableRow i).selects op = true := by
  rw [decodeGroup8] at h
  split at h <;> cases h
  all_goals exact (selects_F00F_iff (by decide)).mpr ⟨hg, ‹_›⟩

theorem selects_of_decodeGroupE {op : Word} {i : Instr} (hg : fieldG op = 0xE) (h : decodeGroupE op = .known i) :
    (tableRow i).selects op = true := by
  rw [decodeGroupE] at h
  split at h <;> cases h
  all_goals exact (selects_F0FF_iff (by decide)).mpr ⟨hg, ‹_›⟩

theorem selects_of_decodeGroupF {op : Word} {i : Instr} (hg : fieldG op = 0xF) (h : decodeGroupF op = .known i) :
    (tableRow i).selects op = true := by
  rw [decodeGroupF] at h
  split at h <;> cases h
  all_goals exact (selects_F0FF_iff (by decide)).mpr ⟨hg, ‹_›⟩

/-- The first level answers for the groups that a group nibble alone decides; the others go to the second level. -/
theorem selects_of_decode {op : Word} {i : Instr} (h : decode op = .known i) : (tableRow i).selects op = true := by
  have hlt := fieldG_lt op
  rw [decode] at h
  split at h
  case h_1 => exact selects_of_decodeGroup0 h
  case h_9 hg => exact selects_of_decodeGroup8 hg h
  case h_15 hg => exact selects_of_decodeGroupE hg h
  case h_16 =>
    have hg : fieldG op = 0xF := by simp only [imp_false] at *; omega
    exact selects_of_decodeGroupF hg h
  all_goals
    cases h
    exact (selects_F000_iff rfl).mpr ‹_›

theorem refill_of_decode {op : Word} {i : Instr} (h : decode op = .known i) : i.refill op = i := by
  have hrefill := decode_of_selects (selects_of_decode h)
  rw [h] at hrefill
  exact (Decoded.known.inj hrefill).symm

/-! ## The encoder -/

/-- Every encoded word selects its instruction's row (the per-instruction laws, taken together). -/
theorem tableRow_statement (i : Instr) : Laws.TableRow.Statement i := by
  cases i
  case cls => exact Laws.TableRow.cls
  case ret => exact Laws.TableRow.ret
  case jump => exact Laws.TableRow.jump _
  case call => exact Laws.TableRow.call _
  case se => exact Laws.TableRow.se _ _
  case sne => exact Laws.TableRow.sne _ _
  case ser => exact Laws.TableRow.ser _ _
  case ld => exact Laws.TableRow.ld _ _
  case add => exact Laws.TableRow.add _ _
  case ldr => exact Laws.TableRow.ldr _ _
  case or => exact Laws.TableRow.or _ _
  case and => exact Laws.TableRow.and _ _
  case xor => exact Laws.TableRow.xor _ _
  case addr => exact Laws.TableRow.addr _ _
  case subr => exact Laws.TableRow.subr _ _
  case shr => exact Laws.TableRow.shr _
  case subnr => exact Laws.TableRow.subnr _ _
  case shl => exact Laws.TableRow.shl _
  case sner => exact Laws.TableRow.sner _ _
  case ldi => exact Laws.TableRow.ldi _
  case jumpv0 => exact Laws.TableRow.jumpv0 _
  case rnd => exact Laws.TableRow.rnd _ _
  case drw => exact Laws.TableRow.drw _ _ _
  case skp => exact Laws.TableRow.skp _
  case sknp => exact Laws.TableRow.sknp _
  case ldvdt => exact Laws.TableRow.ldvdt _
  case ldk => exact Laws.TableRow.ldk _
  case lddtv => exact Laws.TableRow.lddtv _
  case ldstv => exact Laws.TableRow.ldstv _
  case addi => exact Laws.TableRow.addi _
  case ldfont => exact Laws.TableRow.ldfont _
  case ldbcd => exact Laws.TableRow.ldbcd _
  case starr => exact Laws.TableRow.starr _
  case ldarr => exact Laws.TableRow.ldarr _

/-- The operands of an instruction are the fields of its encoded word. -/
theorem refill_encode (i : Instr) : i.refill (encode i) = i := by
  cases i
  case cls | ret => rfl
  case jump | call | ldi | jumpv0 => simp only [Instr.refill, encode, fields_wordNNN, Nat.reduceLT]
  case ser | ldr | or | and | xor | addr | subr | shr | subnr | shl | sner | drw =>
    simp only [Instr.refill, encode, fields_wordXYN, Nat.reduceLT]
  all_goals simp only [Instr.refill, encode, fields_wordXKK, Nat.reduceLT]

/-- Settles O46: an encoded word selects its instruction's row, so it decodes to the instruction with the word's fields as
operands, and these are the instruction's own. -/
theorem decodeUndoesEncode : Obligations.DecodeUndoesEncode := by
  intro i
  rw [decode_of_selects (tableRow_statement i).1, refill_encode]

end Sys2Proof
end

section
/-! The encoder and the rows of the opcode table (spec/30_encoding.md sections 2, 3 and 6): an opcode whose ignored bits
are 0 is the encoded word of what it decodes to, and an opcode selects one row at most. -/

namespace Sys2Proof

/-! ## Words put together from the fields of an opcode -/

theorem wordNNN_fields {g : Nat} {op : Word} (hg : fieldG op = g) : wordNNN g (fieldNNN op) = op := by
  have hlt := fieldG_lt op
  rw [BitVec.toNat_eq, wordNNN_toNat g _ (by omega), fieldNNN_toNat, ← hg, fieldG_eq]
  omega

theorem wordXKK_fields {g : Nat} {op : Word} {kk : Byte} (hg : fieldG op = g) (hk : slice op 7 0 = kk.toNat) :
    wordXKK g (fieldX op) kk = op := by
  have hlt := fieldG_lt op
  rw [BitVec.toNat_eq, wordXKK_toNat g _ _ (by omega), fieldX_val, ← hk, ← hg, fieldG_eq, slice]
  omega

theorem wordXYN_fields {g : Nat} {op : Word} {n : Fin 16} (hg : fieldG op = g) (hn : slice op 3 0 = n.val) :
    wordXYN g (fieldX op) (fieldY op) n = op := by
  have hlt := fieldG_lt op
  rw [BitVec.toNat_eq, wordXYN_toNat g _ _ _ (by omega), fieldX_val, fieldY_val, ← hn, ← hg, fieldG_eq, slice]
  omega

/-! ## Ignored bits (R70) -/

theorem and_F000_eq_iff {op value : Word} (hv : value.toNat % 4096 = 0) :
    op &&& 0xF000 = value ↔ fieldG op = value.toNat / 4096 := by
  rw [BitVec.toNat_eq, and_F000_toNat, fieldG_eq]
  omega

theorem and_F00F_eq_iff {op value : Word} (hv : value.toNat % 4096 < 16) :
    op &&& 0xF00F = value ↔ fieldG op = value.toNat / 4096 ∧ slice op 3 0 = value.toNat % 16 := by
  rw [BitVec.toNat_eq, and_F00F_toNat, fieldG_eq, slice]
  omega

theorem ignoredBits_of_group_5_9 {op : Word} (h : fieldG op = 5 ∨ fieldG op = 9) : ignoredBits op = 0x000F := by
  rw [ignoredBits, if_pos]
  rwa [and_F000_eq_iff rfl, and_F000_eq_iff rfl]

theorem ignoredBits_of_shift {op : Word} (hg : fieldG op = 8) (hn : slice op 3 0 = 6 ∨ slice op 3 0 = 0xE) :
    ignoredBits op = 0x00F0 := by
  rw [ignoredBits, if_neg, if_pos]
  · rw [and_F00F_eq_iff (by decide), and_F00F_eq_iff (by decide)]
    exact hn.imp (⟨hg, ·⟩) (⟨hg, ·⟩)
  · rw [and_F000_eq_iff rfl, and_F000_eq_iff rfl, hg]
    decide

theorem ignoredBits_of_group_ne {op : Word} (h5 : fieldG op ≠ 5) (h8 : fieldG op ≠ 8) (h9 : fieldG op ≠ 9) :
    ignoredBits op = 0 := by
  rw [ignoredBits, if_neg, if_neg]
  · rw [and_F00F_eq_iff (by decide), and_F00F_eq_iff (by decide)]
    exact fun h => h8 (h.elim (·.1) (·.1))
  · rw [and_F000_eq_iff rfl, and_F000_eq_iff rfl]
    exact fun h => h.elim h5 h9

theorem canonicalOpcode_iff (op : Word) : canonicalOpcode op = true ↔ (op &&& ignoredBits op).toNat = 0 := by
  rw [canonicalOpcode, beq_iff_eq, BitVec.toNat_eq]
  rfl

theorem low_nibble_of_canonical {op : Word} (hg : fieldG op = 5 ∨ fieldG op = 9) (hc : canonicalOpcode op = true) :
    slice op 3 0 = 0 := by
  rw [canonicalOpcode_iff, ignoredBits_of_group_5_9 hg, BitVec.toNat_and] at hc
  rw [slice, Nat.pow_zero, Nat.div_one]
  exact (Nat.and_two_pow_sub_one_eq_mod op.toNat 4).symm.trans hc

theorem fieldY_of_canonical {op : Word} (hg : fieldG op = 8) (hn : slice op 3 0 = 6 ∨ slice op 3 0 = 0xE)
    (hc : canonicalOpcode op = true) : fieldY op = 0 := by
  rw [canonicalOpcode_iff, ignoredBits_of_shift hg hn, BitVec.toNat_and] at hc
  have hshift : op.toNat >>> 4 &&& 2 ^ 4 - 1 = 0 := by
    rw [show 2 ^ 4 - 1 = (0x00F0 : Word).toNat >>> 4 from rfl, ← Nat.shiftRight_and_distrib, hc, Nat.zero_shiftRight]
  rw [Nat.and_two_pow_sub_one_eq_mod, Nat.shiftRight_eq_div_pow] at hshift
  exact Fin.ext hshift

/-- An opcode whose ignored bits are 0 and that selects the row of an instruction is the encoded word of that instruction
with the opcode's own fields. -/
theorem encode_refill {op : Word} {i : Instr} (h : (tableRow i).selects op = true) (hc : canonicalOpcode op = true) :
    encode (i.refill op) = op := by
  cases i
  case cls | ret => exact (selects_FFFF_iff.mp h).symm
  case jump | call | ldi | jumpv0 => exact wordNNN_fields ((selects_F000_iff rfl).mp h)
  case se | sne | ld | add | rnd =>
    exact wordXKK_fields ((selects_F000_iff rfl).mp h) (by rw [fieldKK_toNat, slice]; omega)
  case ser | sner =>
    have hg := (selects_F000_iff rfl).mp h
    exact wordXYN_fields hg (low_nibble_of_canonical (by rw [hg]; decide) hc)
  case drw => exact wordXYN_fields ((selects_F000_iff rfl).mp h) rfl
  case ldr | or | and | xor | addr | subr | subnr =>
    obtain ⟨hg, hn⟩ := (selects_F00F_iff (by decide)).mp h
    exact wordXYN_fields hg hn
  case shr | shl =>
    obtain ⟨hg, hn⟩ := (selects_F00F_iff (by decide)).mp h
    have hy := fieldY_of_canonical hg (by rw [hn]; decide) hc
    rw [Instr.refill, encode, ← hy]
    exact wordXYN_fields hg hn
  case skp | sknp | ldvdt | ldk | lddtv | ldstv | addi | ldfont | ldbcd | starr | ldarr =>
    obtain ⟨hg, hk⟩ := (selects_F0FF_iff (by decide)).mp h
    exact wordXKK_fields hg hk

/-- No instruction that can fault has ignored bits. -/
theorem canonical_of_canRaise {op : Word} {i : Instr} (h : (tableRow i).selects op = true) (hf : i.canRaise ≠ []) :
    canonicalOpcode op = true := by
  have hzero : ignoredBits op = 0 := by
    cases i
    case ret =>
      rw [selects_FFFF_iff.mp h]
      decide
    case call | drw =>
      have hg := (selects_F000_iff rfl).mp h
      exact ignoredBits_of_group_ne (by rw [hg]; decide) (by rw [hg]; decide) (by rw [hg]; decide)
    case skp | sknp | ldfont | ldbcd | starr | ldarr =>
      have hg := ((selects_F0FF_iff (by decide)).mp h).1
      exact ignoredBits_of_group_ne (by rw [hg]; decide) (by rw [hg]; decide) (by rw [hg]; decide)
    all_goals exact absurd rfl hf
  rw [canonicalOpcode, hzero, beq_iff_eq]
  exact BitVec.and_zero

theorem encode_of_decode {op : Word} {i : Instr} (hd : decode op = .known i) (hc : canonicalOpcode op = true) :
    encode i = op := by
  rw [← encode_refill (selects_of_decode hd) hc, refill_of_decode hd]

/-- Settles O47: the decoded instruction's operands are the opcode's fields, and without ignored bits these are all of the
opcode. -/
theorem encodeUndoesDecode : Obligations.EncodeUndoesDecode := fun _ _ => encode_of_decode

/-! ## The rows of the table -/

/-- Every row of the opcode map is the row of some instruction. -/
theorem exists_tableRow {row : OpcodeRow} (h : row ∈ opcodeRows) : ∃ i : Instr, tableRow i = row := by
  have hrows : opcodeRows = List.map tableRow
      [.cls, .ret, .jump 0, .call 0, .se 0 0, .sne 0 0, .ser 0 0, .ld 0 0, .add 0 0, .ldr 0 0, .or 0 0, .and 0 0, .xor 0 0,
       .addr 0 0, .subr 0 0, .shr 0, .subnr 0 0, .shl 0, .sner 0 0, .ldi 0, .jumpv0 0, .rnd 0 0, .drw 0 0 0, .skp 0,
       .sknp 0, .ldvdt 0, .ldk 0, .lddtv 0, .ldstv 0, .addi 0, .ldfont 0, .ldbcd 0, .starr 0, .ldarr 0] := rfl
  rw [hrows, List.mem_map] at h
  obtain ⟨i, -, hi⟩ := h
  exact ⟨i, hi⟩

/-- An opcode selects one row only: the row of what it decodes to. -/
theorem row_unique {op : Word} {row row' : OpcodeRow} (hrow : row ∈ opcodeRows) (hrow' : row' ∈ opcodeRows)
    (h : row.selects op = true) (h' : row'.selects op = true) : row = row' := by
  obtain ⟨i, rfl⟩ := exists_tableRow hrow
  obtain ⟨j, rfl⟩ := exists_tableRow hrow'
  have hij : i.refill op = j.refill op :=
    Decoded.known.inj ((decode_of_selects h).symm.trans (decode_of_selects h'))
  rw [← tableRow_refill op i, hij, tableRow_refill]

/-- Settles O48: decoding and selecting a row are the same, in both directions, and the decoded instruction fixes the
row. -/
theorem decoderMatchesTable : Obligations.DecoderMatchesTable := by
  refine ⟨fun op => ⟨?has_row, ?has_instr⟩, fun op i hd => ?own_row,
    fun op row hrow row' hrow' => row_unique hrow hrow'⟩
  case has_row =>
    rintro ⟨i, hd⟩
    exact ⟨tableRow i, (tableRow_statement i).2, selects_of_decode hd⟩
  case has_instr =>
    rintro ⟨row, hrow, hsel⟩
    obtain ⟨i, rfl⟩ := exists_tableRow hrow
    exact ⟨_, decode_of_selects hsel⟩
  case own_row => exact ⟨(tableRow_statement i).2, selects_of_decode hd⟩

end Sys2Proof
end

section
/-! Unknown opcodes and ignored bits (spec/30_encoding.md sections 3 and 6): which opcodes each group of the decoder does
not know. -/

namespace Sys2Proof

theorem decodeGroup0_eq_unknown_iff {op w : Word} :
    decodeGroup0 op = .unknown w ↔ op = w ∧ op ≠ 0x00E0 ∧ op ≠ 0x00EE := by
  by_cases hcls : op = 0x00E0
  · simp [decodeGroup0, hcls]
  · by_cases hret : op = 0x00EE
    · simp [decodeGroup0, hret]
    · rw [decodeGroup0_unknown hcls hret]
      exact ⟨fun h => ⟨Decoded.unknown.inj h, hcls, hret⟩, fun h => congrArg Decoded.unknown h.1⟩

theorem decodeGroup8_eq_unknown_iff {op w : Word} :
    decodeGroup8 op = .unknown w ↔ op = w ∧ slice op 3 0 ∈ [0x8, 0x9, 0xA, 0xB, 0xC, 0xD, 0xF] := by
  have hlt : slice op 3 0 < 16 := slice_lt op 3 0
  rw [decodeGroup8]
  generalize slice op 3 0 = n at hlt
  interval_cases n <;> simp

theorem decodeGroupE_eq_unknown_iff {op w : Word} :
    decodeGroupE op = .unknown w ↔ op = w ∧ slice op 7 0 ∉ [0x9E, 0xA1] := by
  rw [decodeGroupE]
  split <;> simp_all

theorem decodeGroupF_eq_unknown_iff {op w : Word} :
    decodeGroupF op = .unknown w ↔
      op = w ∧ slice op 7 0 ∉ [0x07, 0x0A, 0x15, 0x18, 0x1E, 0x29, 0x33, 0x55, 0x65] := by
  rw [decodeGroupF]
  split <;> simp_all

/-- The opcodes that no group of the decoder knows (R65 to R69). -/
def IsUnknownOpcode (op : Word) : Prop :=
  (fieldG op = 0 ∧ op ≠ 0x00E0 ∧ op ≠ 0x00EE) ∨
  (fieldG op = 8 ∧ slice op 3 0 ∈ [0x8, 0x9, 0xA, 0xB, 0xC, 0xD, 0xF]) ∨
  (fieldG op = 0xE ∧ slice op 7 0 ∉ [0x9E, 0xA1]) ∨
  (fieldG op = 0xF ∧ slice op 7 0 ∉ [0x07, 0x0A, 0x15, 0x18, 0x1E, 0x29, 0x33, 0x55, 0x65])

theorem decode_eq_unknown_iff {op w : Word} : decode op = .unknown w ↔ op = w ∧ IsUnknownOpcode op := by
  have hlt := fieldG_lt op
  rw [decode, IsUnknownOpcode]
  split
  case h_1 hg => simp [hg, decodeGroup0_eq_unknown_iff]
  case h_9 hg => simp [hg, decodeGroup8_eq_unknown_iff]
  case h_15 hg => simp [hg, decodeGroupE_eq_unknown_iff]
  case h_16 =>
    have hg : fieldG op = 0xF := by simp only [imp_false] at *; omega
    simp [hg, decodeGroupF_eq_unknown_iff]
  all_goals simp [*]

theorem fieldN_eq_slice (op : Word) : (fieldN op).val = slice op 3 0 := rfl

theorem fieldKK_eq_slice (op : Word) : (fieldKK op).toNat = slice op 7 0 := by
  rw [fieldKK_toNat, slice]
  omega

/-- Settles O51: each of the four words selects the row of its instruction and decodes with its own fields. -/
theorem ignoredBitsAreIgnored : Obligations.IgnoredBitsAreIgnored := by
  intro x y n
  refine ⟨?ser, ?sner, ?shr, ?shl⟩
  case ser =>
    obtain ⟨hg, hx, hy, -⟩ := fields_wordXYN 0x5 x y n (by decide)
    rw [decode_of_selects (i := .ser x y) ((selects_F000_iff rfl).mpr hg), Instr.refill, hx, hy]
  case sner =>
    obtain ⟨hg, hx, hy, -⟩ := fields_wordXYN 0x9 x y n (by decide)
    rw [decode_of_selects (i := .sner x y) ((selects_F000_iff rfl).mpr hg), Instr.refill, hx, hy]
  case shr =>
    obtain ⟨hg, hx, -, -, hn⟩ := fields_wordXYN 0x8 x y 0x6 (by decide)
    rw [decode_of_selects (i := .shr x) ((selects_F00F_iff (by decide)).mpr ⟨hg, hn⟩), Instr.refill, hx]
  case shl =>
    obtain ⟨hg, hx, -, -, hn⟩ := fields_wordXYN 0x8 x y 0xE (by decide)
    rw [decode_of_selects (i := .shl x) ((selects_F00F_iff (by decide)).mpr ⟨hg, hn⟩), Instr.refill, hx]

/-- Settles O52: a closed fact about ten words, each the encoded word of its instruction but for the ignored nibble of
0x512F and the Unknown 0x8AB8. -/
theorem writtenWordsDecode : Obligations.WrittenWordsDecode := by
  unfold Obligations.WrittenWordsDecode
  decide

end Sys2Proof

namespace Sys2Proof.Machine

/-- Settles O50: Unknown carries its opcode, the dispatch of an Unknown opcode takes the fault, and the opcodes concerned
are read off the decoder group by group. -/
theorem unknownOpcodes : Obligations.UnknownOpcodes := by
  intro op
  refine ⟨fun w hw => (decode_eq_unknown_iff.mp hw).1.symm, fun hd pc0 s => ?fault, ?sets⟩
  case fault =>
    have hdispatch : dispatch pc0 op s = .next (takeFault .unknownOpcode pc0 (some op) s.tick) := by
      rw [dispatch, hd]
      rfl
    exact ⟨_, hdispatch, takeFault_status .., _, takeFault_fault .., rfl⟩
  case sets =>
    rw [decode_eq_unknown_iff, fieldN_eq_slice, fieldKK_eq_slice]
    exact and_iff_right rfl

end Sys2Proof.Machine
end

section
/-! Frames (spec/40_cycle.md R88): which parts each operation on the state can change. -/

namespace Sys2Proof.Machine

theorem Part.same_trans {s t u : State} {p : Part} (h : p.same s t) (h' : p.same t u) : p.same s u := by
  cases p <;> exact Eq.trans h' h

theorem ChangesOnly.trans {l l' : List Part} {s t u : State} (h : ChangesOnly l s t) (h' : ChangesOnly l' t u) :
    ChangesOnly (l ++ l') s u := by
  intro p hp
  rw [List.mem_append, not_or] at hp
  exact Part.same_trans (h p hp.1) (h' p hp.2)

section
variable (s : State)

theorem changesOnly_setV (x : Reg) (b : Byte) : ChangesOnly [.reg x] s (s.setV x b) := by
  intro p hp
  cases p with
  | reg r => exact setV_reg_of_ne fun hxr => hp (List.mem_singleton.mpr (congrArg Part.reg hxr.symm))
  | _ => rfl

theorem changesOnly_setVWithFlag (x : Reg) (b : Byte) (f : Bool) :
    ChangesOnly [.reg x, .reg Reg.vf] s (s.setVWithFlag x b f) :=
  (changesOnly_setV s x b).trans (changesOnly_setV _ Reg.vf (flagByte f))

theorem changesOnly_setI (w : Word) : ChangesOnly [.index] s (s.setI w) := by
  intro p hp
  cases p with
  | index => exact absurd (List.mem_singleton_self _) hp
  | _ => rfl

theorem changesOnly_setPc (w : Word) : ChangesOnly [.pc] s (s.setPc w) := by
  intro p hp
  cases p with
  | pc => exact absurd (List.mem_singleton_self _) hp
  | _ => rfl

theorem changesOnly_skipIf (c : Bool) : ChangesOnly [.pc] s (s.skipIf c) := by
  cases c with
  | true => exact changesOnly_setPc s (s.pc + 2)
  | false => exact changesOnly_setPc s s.pc

theorem changesOnly_setStack (l : List Word) : ChangesOnly [.stack] s (s.setStack l) := by
  intro p hp
  cases p with
  | stack => exact absurd (List.mem_singleton_self _) hp
  | _ => rfl

theorem changesOnly_setDt (b : Byte) : ChangesOnly [.delayTimer] s (s.setDt b) := by
  intro p hp
  cases p with
  | delayTimer => exact absurd (List.mem_singleton_self _) hp
  | _ => rfl

theorem changesOnly_setSt (b : Byte) : ChangesOnly [.soundTimer] s (s.setSt b) := by
  intro p hp
  cases p with
  | soundTimer => exact absurd (List.mem_singleton_self _) hp
  | _ => rfl

theorem changesOnly_setDisplay (fb : Framebuffer) : ChangesOnly [.display, .changed] s (s.setDisplay fb) := by
  intro p hp
  cases p with
  | display | changed => simp at hp
  | _ => rfl

theorem changesOnly_ackRender : ChangesOnly [.changed] s s.ackRender := by
  intro p hp
  cases p with
  | changed => exact absurd (List.mem_singleton_self _) hp
  | _ => rfl

theorem changesOnly_endEvent : ChangesOnly [.host, .taken] s s.endEvent := by
  intro p hp
  cases p with
  | host | taken => simp at hp
  | _ => rfl

/-- The memory operation: a part that is no byte stays, and a byte that reads as before stays. -/
theorem same_setMem {m : Memory} {p : Part} (h : ∀ a, p = .byte a → m.read a = s.mem.read a) :
    p.same s (s.setMem m) := by
  cases p with
  | byte a => exact h a rfl
  | _ => rfl

/-- The operation on all registers: a part that is no register stays, and a register that holds its old value stays. -/
theorem same_setRegs {v : Vector Byte 16} {p : Part} (h : ∀ r, p = .reg r → v[r] = s.reg r) :
    p.same s (s.setRegs v) := by
  cases p with
  | reg r => exact h r rfl
  | _ => rfl

end

end Sys2Proof.Machine
end

section
/-! The meaning of an instruction, before it is settled: a next state or a fault. Everything said of all 34 instructions at
once rests on three facts about it: which faults it can raise, which of a few forms the next state has (`Effect`), and that
it does not read `ST`, `changed` or, with four exceptions, the host's inputs. -/

namespace Sys2Proof

open Machine

/-- The parts an instruction may change when it does not fault (spec/40_cycle.md R88, decision D26; log 21). -/
def Instr.touches (i : Instr) : Part → Bool
  | .reg r => i.namesDest r || (i.writesFlag && r == Reg.vf)
  | .index =>
    match i with
    | .ldi _ | .addi _ | .ldfont _ => true
    | _ => false
  | .pc =>
    match i with
    | .ret | .jump _ | .call _ | .jumpv0 _ | .se _ _ | .sne _ _ | .ser _ _ | .sner _ _ | .skp _ | .sknp _ | .ldk _ => true
    | _ => false
  | .stack =>
    match i with
    | .ret | .call _ => true
    | _ => false
  | .delayTimer =>
    match i with
    | .lddtv _ => true
    | _ => false
  | .soundTimer =>
    match i with
    | .ldstv _ => true
    | _ => false
  | .byte _ =>
    match i with
    | .ldbcd _ | .starr _ => true
    | _ => false
  | .display | .changed =>
    match i with
    | .cls | .drw _ _ _ => true
    | _ => false
  | .status | .fault | .host | .taken => false

end Sys2Proof

namespace Sys2Proof.Machine

/-- What an instruction does before a fault is taken (`exec_eq_settle` ties it to `exec`). -/
def meaning (i : Instr) (s : State) : Except Fault State :=
  match i with
  | .cls => .ok (s.setDisplay clearScreen)
  | .ret => s.pop.map fun p => p.2.setPc p.1
  | .jump nnn => .ok (s.setPc (zext16 nnn))
  | .call nnn => (s.push s.pc).map fun t => t.setPc (zext16 nnn)
  | .se x kk => .ok (s.skipIf (s.reg x == kk))
  | .sne x kk => .ok (s.skipIf (s.reg x != kk))
  | .ser x y => .ok (s.skipIf (s.reg x == s.reg y))
  | .ld x kk => .ok (s.setV x kk)
  | .add x kk => .ok (s.setVWithFlag x (addBytes (s.reg x) kk) (carryOut (s.reg x) kk))
  | .ldr x y => .ok (s.setV x (s.reg y))
  | .or x y => .ok (s.setV x (s.reg x ||| s.reg y))
  | .and x y => .ok (s.setV x (s.reg x &&& s.reg y))
  | .xor x y => .ok (s.setV x (s.reg x ^^^ s.reg y))
  | .addr x y => .ok (s.setVWithFlag x (addBytes (s.reg x) (s.reg y)) (carryOut (s.reg x) (s.reg y)))
  | .subr x y => .ok (s.setVWithFlag x (subBytes (s.reg x) (s.reg y)) (strictlyGreater (s.reg x) (s.reg y)))
  | .shr x => .ok (s.setVWithFlag x (shiftRightByte (s.reg x)) (lowBit (s.reg x)))
  | .subnr x y => .ok (s.setVWithFlag x (subBytes (s.reg y) (s.reg x)) (strictlyGreater (s.reg y) (s.reg x)))
  | .shl x => .ok (s.setVWithFlag x (shiftLeftByte (s.reg x)) (highBit (s.reg x)))
  | .sner x y => .ok (s.skipIf (s.reg x != s.reg y))
  | .ldi nnn => .ok (s.setI (zext16 nnn))
  | .jumpv0 nnn => .ok (s.setPc (zext16 nnn + zextByte (s.reg 0)))
  | .rnd x kk => .ok (s.setV x (s.randomNow &&& kk))
  | .drw x y n => (loadBytes s.mem s.baseAddr n.val).map (drawn x y s)
  | .skp x => (selector (s.reg x)).map fun k => s.skipIf s.keysNow[k]
  | .sknp x => (selector (s.reg x)).map fun k => s.skipIf (!s.keysNow[k])
  | .ldvdt x => .ok (s.setV x s.dt)
  | .ldk x =>
    .ok (match firstKey s.keysNow with
      | some k => s.setV x (BitVec.ofNat 8 k.val)
      | none => s.setPc (s.pc - 2))
  | .lddtv x => .ok (s.setDt (s.reg x))
  | .ldstv x => .ok (s.setSt (s.reg x))
  | .addi x => .ok (s.setI (s.i + zextByte (s.reg x)))
  | .ldfont x => (selector (s.reg x)).map fun d => s.setI (glyphAddr d)
  | .ldbcd x => (storeBytes s.mem s.baseAddr (bcdDigits (s.reg x))).map s.setMem
  | .starr x => (storeBytes s.mem s.baseAddr (s.regsUpTo x)).map s.setMem
  | .ldarr x => (loadBytes s.mem s.baseAddr (x.val + 1)).map fun bs => s.setRegs (fillRegs s.v 0 bs)

/-- `exec` is the meaning, with a fault taken for this instruction. -/
theorem exec_eq_settle (i : Instr) (s : State) : exec i s = settle i s (meaning i s) := by cases i <;> rfl

theorem exec_of_meaning_ok {i : Instr} {s t : State} (h : meaning i s = .ok t) : exec i s = .next t := by
  rw [exec_eq_settle, h, settle_ok]

theorem exec_of_meaning_error {i : Instr} {s : State} {f : Fault} (h : meaning i s = .error f) :
    exec i s = .next (takeFault f s.ownAddress (some (encode i)) s) := by
  rw [exec_eq_settle, h, settle_error]

/-- The two ways an instruction can end. -/
theorem exec_cases {i : Instr} {s t : State} (h : exec i s = .next t) :
    meaning i s = .ok t ∨ ∃ f, meaning i s = .error f ∧ t = takeFault f s.ownAddress (some (encode i)) s := by
  cases hm : meaning i s with
  | ok u =>
    rw [exec_of_meaning_ok hm] at h
    cases h
    exact .inl rfl
  | error f =>
    rw [exec_of_meaning_error hm] at h
    cases h
    exact .inr ⟨f, rfl, rfl⟩

/-- Every instruction answers a next state. -/
theorem exec_answers (i : Instr) (s : State) : ∃ t, exec i s = .next t := by
  cases hm : meaning i s with
  | ok t => exact ⟨t, exec_of_meaning_ok hm⟩
  | error f => exact ⟨_, exec_of_meaning_error hm⟩

/-! ## What the shared operations answer -/

theorem map_eq_ok {α β : Type} {r : Except Fault α} {g : α → β} {b : β} (h : r.map g = .ok b) :
    ∃ a, r = .ok a ∧ g a = b := by
  cases r with
  | ok a => exact ⟨a, rfl, Except.ok.inj h⟩
  | error f => cases h

theorem map_eq_error {α β : Type} {r : Except Fault α} {g : α → β} {f : Fault} (h : r.map g = .error f) :
    r = .error f := by
  cases r with
  | ok a => cases h
  | error f' => exact congrArg Except.error (Except.error.inj h)

theorem pop_eq_ok {s t : State} {w : Word} (h : s.pop = .ok (w, t)) :
    ∃ rest, s.stack = w :: rest ∧ t = s.setStack rest := by
  cases hs : s.stack with
  | nil =>
    rw [pop_error hs] at h
    cases h
  | cons w' rest =>
    rw [pop_ok hs] at h
    cases h
    exact ⟨rest, rfl, rfl⟩

theorem push_eq_ok {s t : State} {w : Word} (h : s.push w = .ok t) :
    s.stack.length < Config.stackCapacity ∧ t = s.setStack (w :: s.stack) := by
  by_cases hlt : s.stack.length < Config.stackCapacity
  · rw [push_ok hlt] at h
    cases h
    exact ⟨hlt, rfl⟩
  · rw [push_error (by omega)] at h
    cases h

theorem pop_eq_error {s : State} {f : Fault} (h : s.pop = .error f) : f = .stackUnderflow := by
  cases hs : s.stack with
  | nil => rw [pop_error hs] at h; exact (Except.error.inj h).symm
  | cons w rest => rw [pop_ok hs] at h; cases h

theorem push_eq_error {s : State} {w : Word} {f : Fault} (h : s.push w = .error f) : f = .stackOverflow := by
  by_cases hlt : s.stack.length < Config.stackCapacity
  · rw [push_ok hlt] at h; cases h
  · rw [push_error (by omega)] at h; exact (Except.error.inj h).symm

theorem selector_eq_error {b : Byte} {f : Fault} (h : selector b = .error f) : f = .operandRange := by
  rcases selector_cases b with ⟨k, hk⟩ | he
  · rw [hk] at h; cases h
  · rw [he] at h; exact (Except.error.inj h).symm

theorem loadBytes_eq_error {m : Memory} {a n : Nat} {f : Fault} (h : loadBytes m a n = .error f) :
    ∃ b, f = .memOutOfRange b := by
  rcases loadBytes_cases m a n with ⟨bs, hbs, -⟩ | he
  · rw [hbs] at h; cases h
  · rw [he] at h; exact ⟨_, (Except.error.inj h).symm⟩

theorem storeBytes_eq_error {m : Memory} {a : Nat} {bs : List Byte} {f : Fault} (h : storeBytes m a bs = .error f) :
    ∃ b, f = .memOutOfRange b := by
  rcases storeBytes_outcome bs m a with ⟨m', hm'⟩ | ⟨b, he⟩
  · rw [hm'] at h; cases h
  · rw [he] at h; exact ⟨b, (Except.error.inj h).symm⟩

/-- An instruction raises only the faults the spec gives it (R161, R169). -/
theorem meaning_error {i : Instr} {s : State} {f : Fault} (h : meaning i s = .error f) : f.kind ∈ i.canRaise := by
  cases i
  case ret => rw [pop_eq_error (map_eq_error h)]; exact List.mem_singleton_self _
  case call => rw [push_eq_error (map_eq_error h)]; exact List.mem_singleton_self _
  case skp | sknp | ldfont => rw [selector_eq_error (map_eq_error h)]; exact List.mem_singleton_self _
  case drw | ldarr =>
    obtain ⟨a, rfl⟩ := loadBytes_eq_error (map_eq_error h)
    exact List.mem_singleton_self _
  case ldbcd | starr =>
    obtain ⟨a, rfl⟩ := storeBytes_eq_error (map_eq_error h)
    exact List.mem_singleton_self _
  all_goals cases h

/-! ## The forms of a next state -/

/-- What an instruction that does not fault can leave: the state after one of a few operations, on parts the instruction
touches. -/
inductive Effect (i : Instr) (s : State) : State → Prop where
  | register (x : Reg) (b : Byte) : i.touches (.reg x) = true → Effect i s (s.setV x b)
  | flagged (x : Reg) (b : Byte) (f : Bool) : i.touches (.reg x) = true → i.touches (.reg Reg.vf) = true →
      Effect i s (s.setVWithFlag x b f)
  | registers (v : Vector Byte 16) : (∀ r, i.touches (.reg r) = false → v[r] = s.reg r) → Effect i s (s.setRegs v)
  | index (w : Word) : i.touches .index = true → Effect i s (s.setI w)
  | jump (w : Word) : w.toNat ≤ 0x10FE → i.touches .pc = true → Effect i s (s.setPc w)
  | skip (c : Bool) : i.touches .pc = true → Effect i s (s.skipIf c)
  | wait : i.touches .pc = true → Effect i s (s.setPc (s.pc - 2))
  | call (w : Word) : w.toNat ≤ 0xFFF → s.stack.length < Config.stackCapacity → i.touches .pc = true →
      i.touches .stack = true → Effect i s ((s.setStack (s.pc :: s.stack)).setPc w)
  | ret (w : Word) (rest : List Word) : s.stack = w :: rest → i.touches .pc = true → i.touches .stack = true →
      Effect i s ((s.setStack rest).setPc w)
  | delayTimer (b : Byte) : i.touches .delayTimer = true → Effect i s (s.setDt b)
  | soundTimer (b : Byte) : i.touches .soundTimer = true → Effect i s (s.setSt b)
  | memory (bs : List Byte) (m : Memory) : storeBytes s.mem s.baseAddr bs = .ok m → (∀ a, i.touches (.byte a) = true) →
      Effect i s (s.setMem m)
  | display (fb : Framebuffer) : i.touches .display = true → i.touches .changed = true → Effect i s (s.setDisplay fb)
  | drawing (fb : Framebuffer) (f : Bool) : i.touches .display = true → i.touches .changed = true →
      i.touches (.reg Reg.vf) = true → Effect i s ((s.setDisplay fb).setV Reg.vf (flagByte f))

/-- The registers that LDARR leaves alone. -/
theorem fillRegs_get_above {v : Vector Byte 16} {bs : List Byte} {r : Reg} (h : bs.length ≤ r.val) :
    (fillRegs v 0 bs)[r] = v[r] := by
  rw [fillRegs_get, if_neg (by omega)]

theorem length_of_loadBytes {m : Memory} {a n : Nat} {bs : List Byte} (h : loadBytes m a n = .ok bs) :
    bs.length = n := by
  rcases loadBytes_cases m a n with ⟨bs', hbs', hlen⟩ | he
  · rw [hbs'] at h
    cases h
    exact hlen
  · rw [he] at h
    cases h

theorem zext16_le (nnn : Addr) : (zext16 nnn).toNat ≤ 0xFFF := by
  rw [zext16_toNat]
  omega

theorem zext16_add_zextByte_le (nnn : Addr) (b : Byte) : (zext16 nnn + zextByte b).toNat ≤ 0x10FE := by
  rw [zext16_add_zextByte_toNat]
  omega

/-- Every meaning that is not a fault has one of the forms, on parts its instruction touches. -/
theorem effect_of_meaning {i : Instr} {s t : State} (h : meaning i s = .ok t) : Effect i s t := by
  cases i
  case cls => cases h; exact .display _ rfl rfl
  case ret =>
    obtain ⟨⟨w, u⟩, hpop, rfl⟩ := map_eq_ok h
    obtain ⟨rest, hstack, rfl⟩ := pop_eq_ok hpop
    exact .ret w rest hstack rfl rfl
  case jump nnn => cases h; exact .jump _ (by have := zext16_le nnn; omega) rfl
  case jumpv0 nnn => cases h; exact .jump _ (zext16_add_zextByte_le nnn _) rfl
  case call nnn =>
    obtain ⟨u, hpush, rfl⟩ := map_eq_ok h
    obtain ⟨hlen, rfl⟩ := push_eq_ok hpush
    exact .call _ (zext16_le nnn) hlen rfl rfl
  case se | sne | ser | sner => cases h; exact .skip _ rfl
  case ld | ldr | or | and | xor | rnd | ldvdt =>
    cases h
    exact .register _ _ (by simp [Instr.touches, Instr.namesDest])
  case add | addr | subr | shr | subnr | shl =>
    cases h
    exact .flagged _ _ _ (by simp [Instr.touches, Instr.namesDest]) (by simp [Instr.touches, Instr.writesFlag])
  case ldi | addi => cases h; exact .index _ rfl
  case ldfont =>
    obtain ⟨d, -, rfl⟩ := map_eq_ok h
    exact .index _ rfl
  case skp | sknp =>
    obtain ⟨k, -, rfl⟩ := map_eq_ok h
    exact .skip _ rfl
  case ldk x =>
    rw [← Except.ok.inj h]
    split
    · exact .register _ _ (by simp [Instr.touches, Instr.namesDest])
    · exact .wait rfl
  case lddtv => cases h; exact .delayTimer _ rfl
  case ldstv => cases h; exact .soundTimer _ rfl
  case drw =>
    obtain ⟨rows, -, rfl⟩ := map_eq_ok h
    exact .drawing _ _ rfl rfl (by simp [Instr.touches, Instr.writesFlag])
  case ldbcd | starr =>
    obtain ⟨m, hm, rfl⟩ := map_eq_ok h
    exact .memory _ m hm fun _ => rfl
  case ldarr x =>
    obtain ⟨bs, hbs, rfl⟩ := map_eq_ok h
    refine .registers _ fun r hr => fillRegs_get_above ?_
    have hxr : x.val < r.val := by simpa [Instr.touches, Instr.namesDest, Instr.writesFlag] using hr
    have hlen := length_of_loadBytes hbs
    omega

theorem same_of_changesOnly {i : Instr} {s t : State} {l : List Part} {p : Part} (h : ChangesOnly l s t)
    (hl : ∀ q ∈ l, i.touches q = true) (hp : i.touches p = false) : p.same s t :=
  h p fun hmem => by simp [hl p hmem] at hp

/-- The frame of every instruction: a part it does not touch reads as before. -/
theorem Effect.same {i : Instr} {s t : State} {p : Part} (h : Effect i s t) (hp : i.touches p = false) : p.same s t := by
  cases h with
  | register x b hx => exact same_of_changesOnly (changesOnly_setV s x b) (by simp [hx]) hp
  | flagged x b f hx hvf => exact same_of_changesOnly (changesOnly_setVWithFlag s x b f) (by simp [hx, hvf]) hp
  | registers v hv =>
    refine same_setRegs s fun r hr => hv r ?_
    rw [← hr, hp]
  | index w hi => exact same_of_changesOnly (changesOnly_setI s w) (by simp [hi]) hp
  | jump w _ hpc => exact same_of_changesOnly (changesOnly_setPc s w) (by simp [hpc]) hp
  | skip c hpc => exact same_of_changesOnly (changesOnly_skipIf s c) (by simp [hpc]) hp
  | wait hpc => exact same_of_changesOnly (changesOnly_setPc s _) (by simp [hpc]) hp
  | call w _ _ hpc hst =>
    exact same_of_changesOnly ((changesOnly_setStack s _).trans (changesOnly_setPc _ w)) (by simp [hpc, hst]) hp
  | ret w rest _ hpc hst =>
    exact same_of_changesOnly ((changesOnly_setStack s rest).trans (changesOnly_setPc _ w)) (by simp [hpc, hst]) hp
  | delayTimer b hdt => exact same_of_changesOnly (changesOnly_setDt s b) (by simp [hdt]) hp
  | soundTimer b hst => exact same_of_changesOnly (changesOnly_setSt s b) (by simp [hst]) hp
  | memory bs m _ hb =>
    refine same_setMem s fun a ha => ?_
    rw [ha, hb a] at hp
    cases hp
  | display fb hd hc => exact same_of_changesOnly (changesOnly_setDisplay s fb) (by simp [hd, hc]) hp
  | drawing fb f hd hc hvf =>
    exact same_of_changesOnly ((changesOnly_setDisplay s fb).trans (changesOnly_setV _ Reg.vf (flagByte f)))
      (by simp [hd, hc, hvf]) hp

end Sys2Proof.Machine
end

section
/-! What no instruction reads: `ST`, `changed`, and, but for SKP, SKNP, LDK and RND, the host's inputs. -/

namespace Sys2Proof.Machine

/-- The state with other values in the three fields that instructions do not read. -/
def State.withUnread (s : State) (b : Byte) (c : Bool) (h : List HostEvent) : State :=
  { s with st := b, changed := c, host := h }

theorem map_eq_map_map {α : Type} {r : Except Fault α} {g g' : α → State} {k : State → State}
    (h : ∀ a, g' a = k (g a)) : r.map g' = (r.map g).map k := by
  cases r with
  | ok a => exact congrArg Except.ok (h a)
  | error f => rfl

section
variable (s : State) (b : Byte) (c : Bool) (h : List HostEvent)

theorem skipIf_withUnread (k : Bool) : (s.withUnread b c h).skipIf k = (s.skipIf k).withUnread b c h := by
  cases k <;> rfl

theorem pop_withUnread :
    (s.withUnread b c h).pop = s.pop.map fun p => (p.1, p.2.withUnread b c h) := by
  cases hs : s.stack with
  | nil => rw [pop_error hs, pop_error (s := s.withUnread b c h) hs, map_error]
  | cons w rest => rw [pop_ok hs, pop_ok (s := s.withUnread b c h) hs, map_ok]; rfl

theorem push_withUnread (w : Word) : (s.withUnread b c h).push w = (s.push w).map (·.withUnread b c h) := by
  by_cases hlt : s.stack.length < Config.stackCapacity
  · rw [push_ok hlt, push_ok (s := s.withUnread b c h) hlt, map_ok]; rfl
  · rw [push_error (not_lt.mp hlt), push_error (s := s.withUnread b c h) (not_lt.mp hlt), map_error]

/-- An instruction does the same from the state with other values in the unread fields, and leaves each such value unless
it writes the field. The conditions shut out another snapshot or random byte for the instructions that read them. -/
theorem meaning_withUnread (i : Instr)
    (hkeys : i.readsKeys = true → (s.withUnread b c h).keysNow = s.keysNow)
    (hrnd : i.readsRandom = true → (s.withUnread b c h).randomNow = s.randomNow) :
    meaning i (s.withUnread b c h) = (meaning i s).map fun t =>
      t.withUnread (if i.touches .soundTimer then t.st else b) (if i.touches .changed then t.changed else c) h := by
  cases i
  case ret =>
    rw [meaning, meaning, pop_withUnread]
    cases s.pop <;> rfl
  case call =>
    rw [meaning, meaning, show (s.withUnread b c h).pc = s.pc from rfl, push_withUnread]
    cases s.push s.pc <;> rfl
  case se | sne | ser | sner => exact congrArg Except.ok (skipIf_withUnread s b c h _)
  case skp | sknp =>
    rw [meaning, hkeys rfl]
    exact map_eq_map_map fun k => skipIf_withUnread s b c h _
  case ldk =>
    rw [meaning, meaning, hkeys rfl]
    cases firstKey s.keysNow <;> rfl
  case rnd =>
    rw [meaning, hrnd rfl]
    rfl
  case drw | ldfont | ldbcd | starr | ldarr => exact map_eq_map_map fun _ => rfl
  all_goals rfl

end

/-- `exec` from the state with other values in the unread fields: the same status and fault record, and without a fault the
same state but for those fields. -/
theorem exec_withUnread {i : Instr} {s t : State} {b : Byte} {c : Bool} {h : List HostEvent} (he : exec i s = .next t)
    (hkeys : i.readsKeys = true → (s.withUnread b c h).keysNow = s.keysNow)
    (hrnd : i.readsRandom = true → (s.withUnread b c h).randomNow = s.randomNow) :
    ∃ u, exec i (s.withUnread b c h) = .next u ∧ u.status = t.status ∧ u.fault = t.fault ∧
      (t.status ≠ .halted → u = t.withUnread (if i.touches .soundTimer then t.st else b)
        (if i.touches .changed then t.changed else c) h) := by
  have hm := meaning_withUnread s b c h i hkeys hrnd
  rcases exec_cases he with hok | ⟨f, herr, rfl⟩
  · rw [hok, map_ok] at hm
    exact ⟨_, exec_of_meaning_ok hm, rfl, rfl, fun _ => rfl⟩
  · rw [herr, map_error] at hm
    exact ⟨_, exec_of_meaning_error hm, rfl, rfl, fun h => absurd rfl h⟩

/-! ## The frame of `exec` -/

theorem meaning_of_not_halted {i : Instr} {s t : State} (h : exec i s = .next t) (ht : t.status ≠ .halted) :
    meaning i s = .ok t := by
  rcases exec_cases h with hok | ⟨f, -, rfl⟩
  · exact hok
  · exact absurd rfl ht

theorem exec_same {i : Instr} {s t : State} {p : Part} (h : exec i s = .next t) (ht : t.status ≠ .halted)
    (hp : i.touches p = false) : p.same s t :=
  (effect_of_meaning (meaning_of_not_halted h ht)).same hp

theorem ite_touches_st {i : Instr} {s t : State} (h : exec i s = .next t) (ht : t.status ≠ .halted) :
    (if i.touches .soundTimer then t.st else s.st) = t.st :=
  ite_eq_left_iff.mpr fun hp => (exec_same (p := .soundTimer) h ht (Bool.eq_false_iff.mpr hp)).symm

theorem ite_touches_changed {i : Instr} {s t : State} (h : exec i s = .next t) (ht : t.status ≠ .halted) :
    (if i.touches .changed then t.changed else s.changed) = t.changed :=
  ite_eq_left_iff.mpr fun hp => (exec_same (p := .changed) h ht (Bool.eq_false_iff.mpr hp)).symm

theorem exec_host {i : Instr} {s t : State} (h : exec i s = .next t) (ht : t.status ≠ .halted) : t.host = s.host :=
  exec_same (p := .host) h ht rfl

/-! ## One field at a time -/

theorem exec_setSt {i : Instr} {s t : State} (b : Byte) (he : exec i s = .next t) :
    ∃ u, exec i (s.setSt b) = .next u ∧ u.status = t.status ∧ u.fault = t.fault ∧
      (t.status ≠ .halted → u.setSt t.st = t) := by
  obtain ⟨u, hu, hstatus, hfault, hsame⟩ :=
    exec_withUnread (b := b) (c := s.changed) (h := s.host) he (fun _ => rfl) (fun _ => rfl)
  refine ⟨u, hu, hstatus, hfault, fun ht => ?_⟩
  rw [hsame ht, ite_touches_changed he ht, ← exec_host he ht]
  rfl

theorem exec_setHost {i : Instr} {s t : State} (h : List HostEvent) (he : exec i s = .next t)
    (hkeys : i.readsKeys = true → ({ s with host := h } : State).keysNow = s.keysNow)
    (hrnd : i.readsRandom = true → ({ s with host := h } : State).randomNow = s.randomNow) :
    ∃ u, exec i { s with host := h } = .next u ∧ u.status = t.status ∧ u.fault = t.fault ∧
      (t.status ≠ .halted → u = { t with host := h }) := by
  obtain ⟨u, hu, hstatus, hfault, hsame⟩ := exec_withUnread (b := s.st) (c := s.changed) (h := h) he hkeys hrnd
  refine ⟨u, hu, hstatus, hfault, fun ht => ?_⟩
  rw [hsame ht, ite_touches_st he ht, ite_touches_changed he ht]
  rfl

/-- Settles O60: `changed` is one of the fields that no instruction reads. -/
theorem changedHasNoInfluence : Obligations.ChangedHasNoInfluence := by
  intro i s t b he
  obtain ⟨u, hu, hstatus, hfault, hsame⟩ :=
    exec_withUnread (b := s.st) (c := b) (h := s.host) he (fun _ => rfl) (fun _ => rfl)
  refine ⟨u, hu, hstatus, hfault, fun ht => ?_⟩
  rw [hsame ht, ite_touches_st he ht, ← exec_host he ht]
  rfl

/-- Settles O59: the queue is read through the snapshot and the random byte only, and these by the instructions named. -/
theorem inputsReadOnlyByTheirInstructions : Obligations.InputsReadOnlyByTheirInstructions := by
  intro i s t keys keys' rnd rnd' rest he
  refine ⟨fun hno => ?keys, fun hno => ?random⟩
  case keys =>
    exact exec_setHost (s := { s with host := .cycle keys rnd :: rest }) (.cycle keys' rnd :: rest) he
      (fun hyes => by simp [hno] at hyes) (fun _ => rfl)
  case random =>
    exact exec_setHost (s := { s with host := .cycle keys rnd :: rest }) (.cycle keys rnd' :: rest) he
      (fun _ => rfl) (fun hyes => by simp [hno] at hyes)

/-! ## Registers -/

theorem meaning_flag {i : Instr} {s t : State} (h : meaning i s = .ok t) (hi : i.writesFlag = true) :
    t.reg Reg.vf = 0 ∨ t.reg Reg.vf = 1 := by
  cases i
  case add | addr | subr | shr | subnr | shl =>
    cases h
    rw [setVWithFlag_reg, if_pos rfl]
    exact flagByte_cases _
  case drw =>
    obtain ⟨rows, -, rfl⟩ := map_eq_ok h
    rw [drawn, setV_reg_same]
    exact flagByte_cases _
  all_goals cases hi

/-- Settles O53: the flag writers end in a flag byte; a register that is not named and is no flag is not touched. -/
theorem onlyNamedRegistersChange : Obligations.OnlyNamedRegistersChange := by
  intro i s t he ht
  refine ⟨meaning_flag (meaning_of_not_halted he ht), fun r hname hflag => ?_⟩
  have htouch : i.touches (.reg r) = false := by
    rw [Instr.touches, hname, Bool.false_or, Bool.and_eq_false_imp]
    exact fun hw => beq_eq_false_iff_ne.mpr fun hr => hflag ⟨hr, hw⟩
  exact exec_same (p := .reg r) he ht htouch

end Sys2Proof.Machine
end

section
/-! Register ALU (spec/42_alu.md): the instructions that write register x and then the flag. -/

namespace Sys2Proof.Machine

theorem exec_add (s : State) (x : Reg) (kk : Byte) :
    exec (.add x kk) s = .next (s.setVWithFlag x (addBytes (s.reg x) kk) (carryOut (s.reg x) kk)) := rfl

theorem exec_addr (s : State) (x y : Reg) : exec (.addr x y) s =
    .next (s.setVWithFlag x (addBytes (s.reg x) (s.reg y)) (carryOut (s.reg x) (s.reg y))) := rfl

theorem exec_subr (s : State) (x y : Reg) : exec (.subr x y) s =
    .next (s.setVWithFlag x (subBytes (s.reg x) (s.reg y)) (strictlyGreater (s.reg x) (s.reg y))) := rfl

theorem exec_subnr (s : State) (x y : Reg) : exec (.subnr x y) s =
    .next (s.setVWithFlag x (subBytes (s.reg y) (s.reg x)) (strictlyGreater (s.reg y) (s.reg x))) := rfl

theorem exec_shr (s : State) (x : Reg) : exec (.shr x) s =
    .next (s.setVWithFlag x (shiftRightByte (s.reg x)) (lowBit (s.reg x))) := rfl

theorem exec_shl (s : State) (x : Reg) : exec (.shl x) s =
    .next (s.setVWithFlag x (shiftLeftByte (s.reg x)) (highBit (s.reg x))) := rfl

/-! ## Results and flags as numbers -/

theorem addBytes_toNat (a b : Byte) : (addBytes a b).toNat = (a.toNat + b.toNat) % 256 := BitVec.toNat_ofNat ..

theorem subBytes_toNat (a b : Byte) : ((subBytes a b).toNat : Int) = ((a.toNat : Int) - b.toNat) % 256 := by
  rw [subBytes, BitVec.toNat_ofInt]
  omega

theorem shiftRightByte_toNat (a : Byte) : (shiftRightByte a).toNat = a.toNat / 2 := by
  rw [shiftRightByte, BitVec.toNat_ofNat]
  omega

theorem shiftLeftByte_toNat (a : Byte) : (shiftLeftByte a).toNat = a.toNat * 2 % 256 := BitVec.toNat_ofNat ..

theorem carryOut_iff (a b : Byte) : carryOut a b = true ↔ 255 < a.toNat + b.toNat := decide_eq_true_iff

theorem strictlyGreater_iff (a b : Byte) : strictlyGreater a b = true ↔ b.toNat < a.toNat := decide_eq_true_iff

theorem lowBit_eq (a : Byte) : lowBit a = a.getLsbD 0 := (Nat.testBit_zero a.toNat).symm

theorem highBit_eq (a : Byte) : highBit a = a.getLsbD 7 := by
  rw [highBit, BitVec.getLsbD, Nat.testBit_eq_decide_div_mod_eq]
  have ha := a.isLt
  congr 1
  rw [eq_iff_iff]
  omega

/-- An instruction that writes a result and then a flag leaves both, the flag also where `VF` is register x, and does not
fault. -/
theorem exec_writes_flagged {i : Instr} {s : State} {x : Reg} {b : Byte} {f : Bool} {p : Prop} [Decidable p]
    (hexec : exec i s = .next (s.setVWithFlag x b f)) (hf : f = true ↔ p) :
    ∃ t : State, exec i s = .next t ∧ (x ≠ Reg.vf → t.reg x = b) ∧ (t.reg Reg.vf).toNat = (if p then 1 else 0) ∧
      NoFault s t := by
  refine ⟨_, hexec, fun hx => ?result, ?flag, setVWithFlag_status .., setVWithFlag_fault ..⟩
  case result => rw [setVWithFlag_reg, if_neg hx, if_pos rfl]
  case flag =>
    rw [setVWithFlag_reg, if_pos rfl, flagByte_toNat]
    exact if_congr hf rfl rfl

/-- Settles O28: both leave `addBytes` and `carryOut`. -/
theorem addSetsCarry : Obligations.AddSetsCarry := by
  intro s x y kk
  refine ⟨?add, ?addr⟩
  case add =>
    obtain ⟨t, ht, hx, hvf, hnf⟩ := exec_writes_flagged (exec_add s x kk) (carryOut_iff _ _)
    exact ⟨t, ht, fun h => by rw [hx h, addBytes_toNat], hvf, hnf⟩
  case addr =>
    obtain ⟨t, ht, hx, hvf, hnf⟩ := exec_writes_flagged (exec_addr s x y) (carryOut_iff _ _)
    exact ⟨t, ht, fun h => by rw [hx h, addBytes_toNat], hvf, hnf⟩

/-- Settles O29: both leave `subBytes` and `strictlyGreater`, with the operands exchanged. -/
theorem subtractSetsGreater : Obligations.SubtractSetsGreater := by
  intro s x y
  refine ⟨?subr, ?subnr⟩
  case subr =>
    obtain ⟨t, ht, hx, hvf, hnf⟩ := exec_writes_flagged (exec_subr s x y) (strictlyGreater_iff _ _)
    exact ⟨t, ht, fun h => by rw [hx h, subBytes_toNat], hvf, hnf⟩
  case subnr =>
    obtain ⟨t, ht, hx, hvf, hnf⟩ := exec_writes_flagged (exec_subnr s x y) (strictlyGreater_iff _ _)
    exact ⟨t, ht, fun h => by rw [hx h, subBytes_toNat], hvf, hnf⟩

/-- Settles O30: the shifted byte and the bit that leaves it. -/
theorem shiftSetsBitOut : Obligations.ShiftSetsBitOut := by
  intro s x
  refine ⟨?shr, ?shl⟩
  case shr =>
    obtain ⟨t, ht, hx, hvf, hnf⟩ := exec_writes_flagged (exec_shr s x) (Bool.eq_iff_iff.mp (lowBit_eq _))
    exact ⟨t, ht, fun h => by rw [hx h, shiftRightByte_toNat], hvf, hnf⟩
  case shl =>
    obtain ⟨t, ht, hx, hvf, hnf⟩ := exec_writes_flagged (exec_shl s x) (Bool.eq_iff_iff.mp (highBit_eq _))
    exact ⟨t, ht, fun h => by rw [hx h, shiftLeftByte_toNat], hvf, hnf⟩

/-- Settles O54: seven of the instructions are a write of register x, the six others a write of register x and the flag. -/
theorem frameRegisterWriters : Obligations.FrameRegisterWriters := by
  intro s t x y kk i he
  simp only [List.mem_cons, List.not_mem_nil, or_false]
  refine ⟨?plain, ?flagged⟩
  case plain =>
    rintro (rfl | rfl | rfl | rfl | rfl | rfl | rfl) <;> cases he
    all_goals exact changesOnly_setV s x _
  case flagged =>
    rintro (rfl | rfl | rfl | rfl | rfl | rfl) <;> cases he
    all_goals exact changesOnly_setVWithFlag s x _ _

end Sys2Proof.Machine
end

section
/-! Control flow (spec/41_control_flow.md): CALL, and the frame of all transfers. -/

namespace Sys2Proof.Machine

theorem exec_call_ok {s : State} {nnn : Addr} (h : s.stack.length < Config.stackCapacity) :
    exec (.call nnn) s = .next ((s.setStack (s.pc :: s.stack)).setPc (zext16 nnn)) :=
  exec_of_meaning_ok (by rw [meaning, push_ok h, map_ok])

theorem exec_call_error {s : State} {nnn : Addr} (h : Config.stackCapacity ≤ s.stack.length) :
    exec (.call nnn) s = .next (takeFault .stackOverflow s.ownAddress (some (encode (.call nnn))) s) :=
  exec_of_meaning_error (by rw [meaning, push_error h, map_error])

theorem changesOnly_setStack_setPc (s : State) (l : List Word) (w : Word) :
    ChangesOnly [.pc, .stack] s ((s.setStack l).setPc w) :=
  (changesOnly_setPc s w).trans (changesOnly_setStack _ l)

/-- Settles O24: the pushed address is the one RET then pops. -/
theorem callPushes : Obligations.CallPushes := by
  intro s nnn
  refine ⟨fun hlen => ?room, fun hlen => ?full⟩
  case room =>
    exact ⟨_, _, exec_call_ok hlen, zext16_toNat nnn, rfl, noFault_setStack_setPc .., exec_ret_of_stack_cons rfl,
      rfl, rfl⟩
  case full => exact ⟨_, exec_call_error (Nat.le_of_eq hlen.symm), takeFault_status .., takeFault_fault ..⟩

/-- Settles O55: jumps and skips write `PC`; CALL and RET, where they do not fault, the stack and `PC`. -/
theorem frameControl : Obligations.FrameControl := by
  intro s t x y kk nnn i he
  refine ⟨fun hi => ?pc, ?call, ?ret⟩
  case pc =>
    simp only [List.mem_cons, List.not_mem_nil, or_false] at hi
    rcases hi with rfl | rfl | rfl | rfl | rfl | rfl <;> cases he
    · exact changesOnly_setPc s _
    · exact changesOnly_setPc s _
    all_goals exact changesOnly_skipIf s _
  case call =>
    rintro rfl hlen
    rw [exec_call_ok hlen] at he
    cases he
    exact changesOnly_setStack_setPc s _ _
  case ret =>
    rintro rfl hne
    obtain ⟨w, rest, hstack⟩ := List.exists_cons_of_ne_nil hne
    rw [exec_ret_of_stack_cons hstack] at he
    cases he
    exact changesOnly_setStack_setPc s _ _

end Sys2Proof.Machine
end

section
/-! The index register (spec/43_index_memory.md section 2) and the timers (spec/45_keypad_timers.md section 2). -/

namespace Sys2Proof.Machine

theorem exec_addi (s : State) (x : Reg) : exec (.addi x) s = .next (s.setI (s.i + zextByte (s.reg x))) := rfl

theorem exec_ldfont_ok {s : State} {x : Reg} (h : (s.reg x).toNat < 16) :
    exec (.ldfont x) s = .next (s.setI (glyphAddr ⟨(s.reg x).toNat, h⟩)) :=
  exec_of_meaning_ok (by rw [meaning, selector_ok h, map_ok])

theorem exec_ldfont_error {s : State} {x : Reg} (h : 16 ≤ (s.reg x).toNat) :
    exec (.ldfont x) s = .next (takeFault .operandRange s.ownAddress (some (encode (.ldfont x))) s) :=
  exec_of_meaning_error (by rw [meaning, selector_error h, map_error])

theorem exec_ldvdt (s : State) (x : Reg) : exec (.ldvdt x) s = .next (s.setV x s.dt) := rfl

theorem exec_lddtv (s : State) (x : Reg) : exec (.lddtv x) s = .next (s.setDt (s.reg x)) := rfl

theorem exec_ldstv (s : State) (x : Reg) : exec (.ldstv x) s = .next (s.setSt (s.reg x)) := rfl

theorem tone_iff (s : State) : s.tone = true ↔ 0 < s.st.toNat := decide_eq_true_iff

/-- Settles O33: 16-bit addition is addition modulo 65536. -/
theorem addIndexWraps : Obligations.AddIndexWraps := by
  intro s x
  have hsum : (s.i + zextByte (s.reg x)).toNat = (s.i.toNat + (s.reg x).toNat) % 65536 := by
    rw [BitVec.toNat_add, zextByte_toNat]
  exact ⟨_, exec_addi s x, hsum, setI_reg s _ Reg.vf, noFault_setI s _⟩

/-- Settles O34: the range check of the digit decides between the glyph's address and the fault. -/
theorem fontAddress : Obligations.FontAddress := by
  intro s x
  refine ⟨fun hlt => ?digit, fun hge => ?outside⟩
  case digit => exact ⟨_, exec_ldfont_ok hlt, glyphAddr_toNat _, setI_reg s _ Reg.vf, noFault_setI s _⟩
  case outside => exact ⟨_, exec_ldfont_error hge, takeFault_status .., takeFault_fault ..⟩

/-- Settles O56: each instruction is a write of the one element. -/
theorem frameIndexAndTimers : Obligations.FrameIndexAndTimers := by
  intro s t x nnn i he
  refine ⟨fun hi => ?index, ?font, ?delay, ?sound⟩
  case index =>
    simp only [List.mem_cons, List.not_mem_nil, or_false] at hi
    rcases hi with rfl | rfl <;> cases he
    all_goals exact changesOnly_setI s _
  case font =>
    rintro rfl hlt
    rw [exec_ldfont_ok hlt] at he
    cases he
    exact changesOnly_setI s _
  case delay =>
    rintro rfl
    cases he
    exact changesOnly_setDt s _
  case sound =>
    rintro rfl
    cases he
    exact changesOnly_setSt s _

/-- Settles O18: the tick is the decrement of both timers. -/
theorem timerUnit : Obligations.TimerUnit := by
  intro s
  have htick : ∀ b : Byte, (tickByte b).toNat = if 0 < b.toNat then b.toNat - 1 else 0 := fun b => by
    rw [tickByte_toNat]
    split <;> omega
  exact ⟨htick s.dt, htick s.st, (changesOnly_setDt s _).trans (changesOnly_setSt _ _), tone_iff s⟩

/-- Settles O19: three writes of one element each; that no instruction reads `ST` is `exec_setSt`. -/
theorem timerInstructions : Obligations.TimerInstructions := by
  intro s x
  refine ⟨?ticked, ?copy, ?delay, ?sound, fun i t b => exec_setSt b⟩
  case ticked =>
    obtain ⟨t, ht, hx, hvf, hstatus, hfault⟩ := exec_writes_register (exec_ldvdt s.tick x)
    exact ⟨t, ht, by rw [hx, tick_dt, tickByte_toNat], hvf, hstatus, hfault⟩
  case copy =>
    obtain ⟨t, ht, hx, -⟩ := exec_writes_register (exec_ldvdt s x)
    exact ⟨t, ht, hx⟩
  case delay => exact ⟨_, exec_lddtv s x, setDt_dt .., setDt_reg .., setDt_status .., setDt_fault ..⟩
  case sound =>
    exact ⟨_, exec_ldstv s x, setSt_st .., tone_iff _, setSt_reg .., setSt_status .., setSt_fault ..⟩

end Sys2Proof.Machine
end

section
/-! The keypad (spec/45_keypad_timers.md section 1). -/

namespace Sys2Proof.Machine

theorem selector_of_toNat {b : Byte} {k : Fin 16} (h : b.toNat = k.val) : selector b = .ok k :=
  (selector_ok (h ▸ k.isLt)).trans (congrArg Except.ok (Fin.ext h))

theorem exec_skp_ok {s : State} {x : Reg} {k : Fin 16} (h : (s.reg x).toNat = k.val) :
    exec (.skp x) s = .next (s.skipIf s.keysNow[k]) :=
  exec_of_meaning_ok (by rw [meaning, selector_of_toNat h, map_ok])

theorem exec_sknp_ok {s : State} {x : Reg} {k : Fin 16} (h : (s.reg x).toNat = k.val) :
    exec (.sknp x) s = .next (s.skipIf (!s.keysNow[k])) :=
  exec_of_meaning_ok (by rw [meaning, selector_of_toNat h, map_ok])

theorem exec_skp_error {s : State} {x : Reg} (h : 16 ≤ (s.reg x).toNat) :
    exec (.skp x) s = .next (takeFault .operandRange s.ownAddress (some (encode (.skp x))) s) :=
  exec_of_meaning_error (by rw [meaning, selector_error h, map_error])

theorem exec_sknp_error {s : State} {x : Reg} (h : 16 ≤ (s.reg x).toNat) :
    exec (.sknp x) s = .next (takeFault .operandRange s.ownAddress (some (encode (.sknp x))) s) :=
  exec_of_meaning_error (by rw [meaning, selector_error h, map_error])

theorem exec_ldk_some {s : State} {x : Reg} {k : Fin 16} (h : firstKey s.keysNow = some k) :
    exec (.ldk x) s = .next (s.setV x (BitVec.ofNat 8 k.val)) :=
  exec_of_meaning_ok (by rw [meaning, h])

theorem exec_ldk_none {s : State} {x : Reg} (h : firstKey s.keysNow = none) :
    exec (.ldk x) s = .next (s.setPc (s.pc - 2)) :=
  exec_of_meaning_ok (by rw [meaning, h])

/-- R31: a queued cycle brings its own key snapshot. -/
theorem keysNow_of_host {s : State} {keys : Keys} {rnd : Byte} {rest : List HostEvent}
    (h : s.host = .cycle keys rnd :: rest) : s.keysNow = keys := by
  rw [State.keysNow, State.nextEvent, h]

/-- Settles O43: with a key index both are skips on the key's Boolean, else the range check faults. -/
theorem skipsOnKey : Obligations.SkipsOnKey := by
  intro s x
  refine ⟨fun keys rnd rest => keysNow_of_host, fun k hk => ⟨?skp, ?sknp⟩,
    fun hge => ⟨?skp_outside, ?sknp_outside⟩⟩
  case skp => exact exec_skips_iff (exec_skp_ok hk) Iff.rfl
  case sknp =>
    simp only [← ite_not (s.keysNow[k] = true)]
    exact exec_skips_iff (exec_sknp_ok hk) (by rw [Bool.not_eq_true', Bool.not_eq_true])
  case skp_outside => exact ⟨_, exec_skp_error hge, takeFault_status .., takeFault_fault ..⟩
  case sknp_outside => exact ⟨_, exec_sknp_error hge, takeFault_status .., takeFault_fault ..⟩

/-- Settles O44: LDK branches on the first key of the snapshot. -/
theorem keyWait : Obligations.KeyWait := by
  intro s x
  refine ⟨fun k hk hleast => ?pressed, fun hnone => ?waits⟩
  case pressed =>
    have hvalue : ((s.setV x (BitVec.ofNat 8 k.val)).reg x).toNat = k.val := by
      rw [setV_reg_same, BitVec.toNat_ofNat]
      omega
    exact ⟨_, exec_ldk_some (firstKey_some hk hleast), hvalue, setV_pc .., setV_reg_of_ne, noFault_setV s x _⟩
  case waits => exact ⟨_, exec_ldk_none (firstKey_none hnone), rfl, setPc_reg s _, noFault_setPc s _⟩

end Sys2Proof.Machine
end

section
/-! The cycle and the host's inputs (spec/40_cycle.md, spec/60_exceptions.md section 8): one equation of `step` for each
thing the next input can do, and `StepOutcome`, which says that these are all. -/

namespace Sys2Proof.Machine

/-! ## One equation for each input -/

theorem cycleNext_iff (s : State) : s.cycleNext ↔ ∃ keys rnd, s.nextEvent = .cycle keys rnd := by
  rw [State.cycleNext]
  cases s.nextEvent <;> simp [HostEvent.isCycle]

theorem step_of_quit {s : State} (h : s.nextEvent = .quit) : step s = .next s.quit.endEvent := by
  rw [step, takeInput, hostInput, h]
  rfl

theorem step_of_renderAck {s : State} (h : s.nextEvent = .renderAck) : step s = .next s.ackRender.endEvent := by
  rw [step, takeInput, hostInput, h]
  rfl

theorem step_of_reset_ok {s t : State} {rom : List Byte} (h : s.nextEvent = .reset rom) (hr : s.restart rom = .ok t) :
    step s = .next t.endEvent := by
  rw [step, takeInput, hostInput, h]
  simp only [hostReset, hr]
  rfl

theorem step_of_reset_error {s : State} {rom : List Byte} {f : Fault} (h : s.nextEvent = .reset rom)
    (hr : s.restart rom = .error f) : step s = .refused (.romTooLong rom.length) := by
  rw [step, takeInput, hostInput, h]
  simp only [hostReset, hr]
  rfl

theorem step_of_cycle {s : State} (h : s.cycleNext) : step s = thenEndEvent (scheduleCycle s) := by
  obtain ⟨keys, rnd, he⟩ := (cycleNext_iff s).mp h
  rw [step, takeInput, hostInput, he]

theorem step_of_cycle_idle {s : State} (hc : s.cycleNext) (hs : s.status ≠ .running) : step s = .next s.endEvent := by
  rw [step_of_cycle hc, scheduleCycle]
  split
  · next hrun => exact absurd hrun hs
  · rfl

theorem step_of_cycle_running {s : State} (hc : s.cycleNext) (hs : s.status = .running) :
    step s = thenEndEvent (runCycle s) := by
  rw [step_of_cycle hc, scheduleCycle, hs]

theorem step_of_fetch_error {s : State} {f : Fault} (hc : s.cycleNext) (hs : s.status = .running)
    (hf : fetch s = .error f) : step s = .next (takeFault f s.pc none s).endEvent := by
  rw [step_of_cycle_running hc hs, runCycle, hf]
  rfl

theorem step_of_fetch_ok {s t : State} {op : Word} (hc : s.cycleNext) (hs : s.status = .running)
    (hf : fetch s = .ok (op, t)) : step s = thenEndEvent (dispatch s.pc op t) := by
  rw [step_of_cycle_running hc hs, runCycle, hf]

theorem step_of_unknown {s t : State} {op w : Word} (hc : s.cycleNext) (hs : s.status = .running)
    (hf : fetch s = .ok (op, t)) (hd : decode op = .unknown w) :
    step s = .next (takeFault .unknownOpcode s.pc (some w) t.tick).endEvent := by
  rw [step_of_fetch_ok hc hs hf, dispatch, hd]
  rfl

theorem step_of_known {s t : State} {op : Word} {i : Instr} (hc : s.cycleNext) (hs : s.status = .running)
    (hf : fetch s = .ok (op, t)) (hd : decode op = .known i) : step s = thenEndEvent (exec i t.tick) := by
  rw [step_of_fetch_ok hc hs hf, dispatch, hd]

theorem quit_of_running {s : State} (h : s.status = .running) : s.quit = { s with status := .stopped } := by
  rw [State.quit, h]

theorem quit_of_not_running {s : State} (h : s.status ≠ .running) : s.quit = s := by
  rw [State.quit]
  split
  · next hrun => exact absurd hrun h
  · rfl

/-- A fetch that completes leaves the state with `PC` two further, and was inside memory. -/
theorem fetch_eq_ok {s t : State} {op : Word} (h : fetch s = .ok (op, t)) :
    s.pc.toNat + 1 < Config.memSize ∧ op = opcodeOfBytes (s.mem.read s.pc.toNat) (s.mem.read (s.pc.toNat + 1)) ∧
      t = s.setPc (s.pc + 2) := by
  by_cases hlt : s.pc.toNat + 1 < Config.memSize
  · rw [fetch_ok hlt] at h
    cases h
    exact ⟨hlt, rfl, rfl⟩
  · rw [fetch_error (not_lt.mp hlt)] at h
    cases h

/-! ## Every step -/

/-- Everything a cycle of a running machine can have done: three kinds of fault, or an instruction completed. -/
inductive CycleOutcome (s : State) : State → Prop where
  | fetchFault (f : Fault) : fetch s = .error f → CycleOutcome s (takeFault f s.pc none s).endEvent
  | unknown (op : Word) (t : State) : fetch s = .ok (op, t) → decode op = .unknown op →
      CycleOutcome s (takeFault .unknownOpcode s.pc (some op) t.tick).endEvent
  | faulted (op : Word) (t : State) (i : Instr) (f : Fault) : fetch s = .ok (op, t) → decode op = .known i →
      meaning i t.tick = .error f → CycleOutcome s (takeFault f t.tick.ownAddress (some (encode i)) t.tick).endEvent
  | completed (op : Word) (t : State) (i : Instr) (u : State) : fetch s = .ok (op, t) → decode op = .known i →
      meaning i t.tick = .ok u → CycleOutcome s u.endEvent

theorem step_cycle_cases {s : State} (hc : s.cycleNext) (hs : s.status = .running) :
    ∃ t, step s = .next t ∧ CycleOutcome s t := by
  cases hf : fetch s with
  | error f => exact ⟨_, step_of_fetch_error hc hs hf, .fetchFault f hf⟩
  | ok p =>
    obtain ⟨op, t⟩ := p
    cases hd : decode op with
    | unknown w =>
      obtain rfl := (decode_eq_unknown_iff.mp hd).1
      exact ⟨_, step_of_unknown hc hs hf hd, .unknown op t hf hd⟩
    | known i =>
      rw [step_of_known hc hs hf hd]
      cases hm : meaning i t.tick with
      | ok u => exact ⟨_, by rw [exec_of_meaning_ok hm]; rfl, .completed op t i u hf hd hm⟩
      | error f => exact ⟨_, by rw [exec_of_meaning_error hm]; rfl, .faulted op t i f hf hd hm⟩

theorem cycleOutcome_of_step {s t : State} (hc : s.cycleNext) (hs : s.status = .running) (h : step s = .next t) :
    CycleOutcome s t := by
  obtain ⟨u, hu, hout⟩ := step_cycle_cases hc hs
  rw [hu] at h
  cases h
  exact hout

/-- Everything a step that answers a next state can have done. -/
inductive StepOutcome (s : State) : State → Prop where
  | quit : s.nextEvent = .quit → StepOutcome s s.quit.endEvent
  | renderAck : s.nextEvent = .renderAck → StepOutcome s s.ackRender.endEvent
  | restarted (rom : List Byte) (t : State) : s.nextEvent = .reset rom → s.restart rom = .ok t → StepOutcome s t.endEvent
  | idle : s.cycleNext → s.status ≠ .running → StepOutcome s s.endEvent
  | cycle (t : State) : s.cycleNext → s.status = .running → CycleOutcome s t → StepOutcome s t

/-- What a step does, for every next input: one of the outcomes, or the refusal of a reset. -/
theorem step_cases (s : State) : (∃ t, step s = .next t ∧ StepOutcome s t) ∨
    ∃ (rom : List Byte) (f : Fault), s.nextEvent = .reset rom ∧ s.restart rom = .error f ∧
      step s = .refused (.romTooLong rom.length) := by
  cases he : s.nextEvent with
  | quit => exact .inl ⟨_, step_of_quit he, .quit he⟩
  | renderAck => exact .inl ⟨_, step_of_renderAck he, .renderAck he⟩
  | reset rom =>
    cases hr : s.restart rom with
    | ok t => exact .inl ⟨_, step_of_reset_ok he hr, .restarted rom t he hr⟩
    | error f => exact .inr ⟨rom, f, rfl, hr, step_of_reset_error he hr⟩
  | cycle keys rnd =>
    have hc : s.cycleNext := (cycleNext_iff s).mpr ⟨keys, rnd, he⟩
    by_cases hs : s.status = .running
    · obtain ⟨t, ht, hout⟩ := step_cycle_cases hc hs
      exact .inl ⟨t, ht, .cycle t hc hs hout⟩
    · exact .inl ⟨_, step_of_cycle_idle hc hs, .idle hc hs⟩

theorem stepOutcome_of_step {s t : State} (h : step s = .next t) : StepOutcome s t := by
  rcases step_cases s with ⟨u, hu, hout⟩ | ⟨rom, f, -, -, hr⟩
  · rw [hu] at h
    cases h
    exact hout
  · rw [hr] at h
    cases h

/-- An instruction that completes leaves the run status. -/
theorem status_of_meaning_ok {i : Instr} {s t : State} (h : meaning i s = .ok t) : t.status = s.status :=
  (effect_of_meaning h).same (p := .status) rfl

/-- A completed instruction leaves a running machine running. -/
theorem status_of_completed {s t u : State} {op : Word} {i : Instr} (hf : fetch s = .ok (op, t))
    (hm : meaning i t.tick = .ok u) : u.endEvent.status = s.status := by
  rw [endEvent_status, status_of_meaning_ok hm, (fetch_eq_ok hf).2.2]
  rfl

/-! ## The statements on fetch and cycle -/

/-- Settles O6: `meaning` settles every instruction, `step_cases` every step; a reset fails only for a long image. -/
theorem everyStepAnswers : Obligations.EveryStepAnswers := by
  refine ⟨exec_answers, fun s => ?_⟩
  rcases step_cases s with ⟨t, ht, -⟩ | ⟨rom, f, he, hr, href⟩
  · exact .inl ⟨t, ht⟩
  · refine .inr ⟨rom, he, ?_, href⟩
    by_contra hlen
    obtain ⟨m, hm, -⟩ := restart_ok (s := s) (not_lt.mp hlen)
    rw [hm] at hr
    cases hr

/-- Settles O5: the step unfolded as far as `exec`, on the state that fetch and tick leave. -/
theorem stepRunsDecodedInstruction : Obligations.StepRunsDecodedInstruction := by
  intro s i hs hc hpc hd
  rw [step_of_known hc hs (fetch_ok (by simp only [Config.memSize]; omega)) hd]
  cases exec i (s.setPc (s.pc + 2)).tick <;> rfl

/-- D23: which address a fetch that fails records. -/
theorem fetchFault_addr {pc : Word} (h : 0xFFF ≤ pc.toNat) :
    BitVec.ofNat 16 (max pc.toNat Config.memSize) = if pc = 0xFFF then 0x1000 else pc := by
  split
  · next heq => rw [heq]; rfl
  · next hne =>
    have hne' : pc.toNat ≠ 0xFFF := fun he => hne (BitVec.eq_of_toNat_eq he)
    have hge : Config.memSize ≤ pc.toNat := by
      simp only [Config.memSize]
      omega
    rw [Nat.max_eq_left hge, BitVec.ofNat_toNat, BitVec.setWidth_eq]

/-- Settles O3: the two bytes of the opcode are inside memory, or the first bad address is recorded. -/
theorem fetchUnit : Obligations.FetchUnit := by
  intro s
  refine ⟨fun hpc => ?inside, fun hpc hs hc => ?outside⟩
  case inside =>
    have hpc2 : (s.setPc (s.pc + 2)).pc.toNat = s.pc.toNat + 2 := by
      rw [setPc_pc]
      bv_omega
    exact ⟨_, _, fetch_ok (by simp only [Config.memSize]; omega), opcodeOfBytes_toNat .., hpc2, changesOnly_setPc s _⟩
  case outside =>
    have hf := fetch_error (s := s) (by simp only [Config.memSize]; omega)
    refine ⟨_, step_of_fetch_error hc hs hf, rfl, ?_⟩
    rw [endEvent_fault, takeFault_fault, Fault.addr, fetchFault_addr hpc]
    rfl

/-! ## The statements on faults -/

theorem unknownOpcode_not_mem_canRaise (i : Instr) : FaultKind.unknownOpcode ∉ i.canRaise := by
  cases i <;> simp [Instr.canRaise]

theorem fetch_error_kind {s : State} {f : Fault} (h : fetch s = .error f) : f.kind = .memOutOfRange := by
  by_cases hlt : s.pc.toNat + 1 < Config.memSize
  · rw [fetch_ok hlt] at h
    cases h
  · rw [fetch_error (not_lt.mp hlt)] at h
    cases h
    rfl

theorem Fault.addr_isSome_iff (f : Fault) : f.addr.isSome = true ↔ f.kind = .memOutOfRange := by
  cases f <;> simp [Fault.addr, Fault.kind]

/-- Settles O4: the dispatch of Unknown takes that fault, and no other outcome of a cycle records its kind. -/
theorem unknownOpcodeHalts : Obligations.UnknownOpcodeHalts := by
  refine ⟨fun s t op hs hc hf hd => ?halts, fun s u hs hc hstep hu => ?only⟩
  case halts => exact ⟨_, step_of_unknown hc hs hf hd, rfl, rfl⟩
  case only =>
    obtain ⟨hhalted, r, hr, hkind⟩ := hu
    cases cycleOutcome_of_step hc hs hstep with
    | unknown op t hf hd => exact ⟨op, t, hf, hd⟩
    | fetchFault f hf =>
      cases hr
      exact absurd ((fetch_error_kind hf).symm.trans hkind) (by decide)
    | faulted op t i f _ _ hm =>
      cases hr
      exact absurd (hkind ▸ meaning_error hm) (unknownOpcode_not_mem_canRaise i)
    | completed op t i u hf _ hm =>
      rw [status_of_completed hf hm, hs] at hhalted
      cases hhalted

/-- The record of an instruction's fault names the instruction as fetched: its own address and its opcode, which no
instruction that can fault leaves undetermined. -/
theorem record_of_faulted {s t : State} {op : Word} {i : Instr} {f : Fault} (hf : fetch s = .ok (op, t))
    (hd : decode op = .known i) (hm : meaning i t.tick = .error f) :
    (takeFault f t.tick.ownAddress (some (encode i)) t.tick).fault =
      some { kind := f.kind, pc := s.pc, opcode := some op, addr := f.addr } := by
  have hpc : t.tick.ownAddress = s.pc := by
    rw [State.ownAddress, tick_pc, (fetch_eq_ok hf).2.2, setPc_pc]
    exact BitVec.add_sub_cancel ..
  have hop : encode i = op :=
    encode_of_decode hd (canonical_of_canRaise (selects_of_decode hd) (List.ne_nil_of_mem (meaning_error hm)))
  rw [takeFault_fault, hpc, hop]

/-- Settles O7: the only way to end HALTED in executing `i` is `i`'s own fault, whose record is `record_of_faulted`. -/
theorem faultRecordNamesInstruction : Obligations.FaultRecordNamesInstruction := by
  intro s t u op i hs hc hf hd hstep hu
  cases cycleOutcome_of_step hc hs hstep with
  | fetchFault f hf' =>
    rw [hf] at hf'
    cases hf'
  | unknown op' t' hf' hd' =>
    rw [hf] at hf'
    cases hf'
    rw [hd] at hd'
    cases hd'
  | faulted op' t' i' f hf' hd' hm =>
    rw [hf] at hf'
    cases hf'
    rw [hd] at hd'
    cases hd'
    exact ⟨f.kind, meaning_error hm, f.addr, record_of_faulted hf hd hm, f.addr_isSome_iff⟩
  | completed op' t' i' v hf' _ hm =>
    rw [status_of_completed hf' hm, hs] at hu
    cases hu

/-- A cycle after which the machine no longer runs has taken a fault. -/
theorem CycleOutcome.halted_of_not_running {s t : State} (h : CycleOutcome s t) (hs : s.status = .running)
    (ht : t.status ≠ .running) : t.status = .halted ∧ ∃ r, t.fault = some r := by
  cases h with
  | fetchFault | unknown | faulted => exact ⟨rfl, _, rfl⟩
  | completed op t i u hf _ hm => exact absurd ((status_of_completed hf hm).trans hs) ht

theorem quit_status_of_running {s : State} (h : s.status = .running) : s.quit.status = .stopped := by
  rw [quit_of_running h]

/-- Settles O9: the outcomes of a step, and what each does to the run status. -/
theorem runEndsOnlyByFaultOrQuit : Obligations.RunEndsOnlyByFaultOrQuit := by
  intro s t hstep
  cases stepOutcome_of_step hstep with
  | quit he =>
    refine ⟨fun _ _ => he, fun hs ht => ?_, fun hs ht => ?_⟩
    · rw [endEvent_status, quit_status_of_running hs] at ht
      cases ht
    · rw [endEvent_status, quit_of_not_running hs] at ht
      exact absurd rfl ht
  | renderAck =>
    refine ⟨fun hs ht => ?_, fun hs ht => ?_, fun _ ht => absurd rfl ht⟩
    · exact nomatch hs.symm.trans ht
    · exact nomatch hs.symm.trans ht
  | restarted rom u he hr =>
    obtain ⟨m, -, rfl⟩ := map_eq_ok hr
    exact ⟨fun _ ht => (nomatch ht), fun _ ht => (nomatch ht), fun _ _ => ⟨rom, he⟩⟩
  | idle _ hs => exact ⟨fun h => absurd h hs, fun h => absurd h hs, fun _ ht => absurd rfl ht⟩
  | cycle u hc hs hout =>
    refine ⟨fun _ ht => ?_, fun _ ht => ?_, fun h => absurd hs h⟩
    · have hhalted := (hout.halted_of_not_running hs (by rw [ht]; decide)).1
      rw [ht] at hhalted
      cases hhalted
    · exact ⟨hc, (hout.halted_of_not_running hs (by rw [ht]; decide)).2⟩

/-- Settles O10: a cycle is passed over and a quit has nothing to stop. -/
theorem stoppedMachineKeepsState : Obligations.StoppedMachineKeepsState := by
  rintro s hs (hc | hq)
  · exact step_of_cycle_idle hc hs
  · rw [step_of_quit hq, quit_of_not_running hs]
    rfl

/-- Settles O12: the quit of a running machine changes the status, and the input is taken. -/
theorem quitStops : Obligations.QuitStops := by
  intro s hs hq
  refine ⟨_, step_of_quit hq, ?_, fun p hp => ?_⟩
  · rw [endEvent_status, quit_status_of_running hs]
  · rw [quit_of_running hs]
    cases p with
    | status | host | taken => simp at hp
    | _ => rfl

/-- Settles O13: the acknowledge changes the flag, and the input is taken. -/
theorem renderAckClearsChanged : Obligations.RenderAckClearsChanged := fun s he =>
  ⟨_, step_of_renderAck he, rfl, (changesOnly_ackRender s).trans (changesOnly_endEvent _)⟩

/-! ## HALTED lasts -/

theorem step_of_halted {s : State} (hs : s.status = .halted) (hr : ∀ rom, s.nextEvent ≠ .reset rom) :
    ∃ t, step s = .next t ∧ t.status = .halted ∧ t.fault = s.fault ∧ t.host = s.host.tail := by
  have hne : s.status ≠ .running := by rw [hs]; decide
  cases he : s.nextEvent with
  | cycle keys rnd => exact ⟨_, step_of_cycle_idle ((cycleNext_iff s).mpr ⟨keys, rnd, he⟩) hne, hs, rfl, rfl⟩
  | quit => exact ⟨_, step_of_quit he, by rw [quit_of_not_running hne]; exact ⟨hs, rfl, rfl⟩⟩
  | renderAck => exact ⟨_, step_of_renderAck he, hs, rfl, rfl⟩
  | reset rom => exact absurd he (hr rom)

/-- With no reset queued the next input is no reset; beyond the queue every input is a cycle. -/
theorem nextEvent_ne_reset {s : State} (h : ∀ e ∈ s.host, ∀ rom, e ≠ .reset rom) (rom : List Byte) :
    s.nextEvent ≠ .reset rom := by
  rw [State.nextEvent]
  cases hh : s.host with
  | nil => simp
  | cons e rest => exact h e (by simp [hh]) rom

theorem run_succ_of_next {M : Host.Core} {k : Nat} {s t : M.State} (h : M.step s = .next t) :
    M.run (k + 1) s = M.run k t := by
  rw [Host.Core.run, h]

/-- Settles O11: induction on the number of inputs; each step keeps status and record and takes one input off the queue. -/
theorem haltedUntilReset : Obligations.HaltedUntilReset := by
  intro n
  induction n with
  | zero => exact fun s hs _ => ⟨s, rfl, hs, rfl⟩
  | succ n ih =>
    intro s hs hhost
    obtain ⟨t, ht, hstatus, hfault, htail⟩ := step_of_halted hs (nextEvent_ne_reset hhost)
    obtain ⟨u, hu, hustatus, hufault⟩ := ih t hstatus fun e he => hhost e (List.mem_of_mem_tail (htail ▸ he))
    exact ⟨u, (run_succ_of_next (M := Sys2Proof.core) ht).trans hu, hustatus, hufault.trans hfault⟩

end Sys2Proof.Machine
end

section
/-! The machine invariant (spec/10_state.md sections 2 and 6): what each form of a next state does to its parts, and from
that, that every step keeps it. -/

namespace Sys2Proof.Machine

/-! ## What an instruction can do to memory, stack and `PC` -/

theorem Effect.mem_wf {i : Instr} {s t : State} (h : Effect i s t) (hw : s.mem.wf = true) : t.mem.wf = true := by
  cases h with
  | memory bs m hm => exact storeBytes_keeps_wf hw hm
  | skip c => rwa [skipIf_mem]
  | _ => exact hw

theorem Effect.depth_le {i : Instr} {s t : State} (h : Effect i s t) (hd : s.stack.length ≤ Config.stackCapacity) :
    t.stack.length ≤ Config.stackCapacity := by
  cases h with
  | call w _ hlt => exact hlt
  | ret w rest hstack =>
    rw [hstack] at hd
    exact Nat.le_of_succ_le hd
  | skip c => rwa [skipIf_stack]
  | _ => exact hd

/-- R24: from a post-fetch `PC` inside memory, `PC` stays within 0x10FE; LDK's step back does not wrap. -/
theorem Effect.pc_le {i : Instr} {s t : State} (h : Effect i s t) (hlo : 2 ≤ s.pc.toNat) (hhi : s.pc.toNat ≤ 0x1000)
    (hret : ∀ w ∈ s.stack, w.toNat ≤ 0x1000) : t.pc.toNat ≤ 0x10FE := by
  cases h with
  | jump w hw => exact hw
  | skip c =>
    rw [skipIf_pc]
    split <;> bv_omega
  | wait =>
    rw [setPc_pc]
    bv_omega
  | call w hw =>
    rw [setPc_pc]
    omega
  | ret w rest hstack =>
    have hw := hret w (hstack ▸ List.mem_cons_self)
    rw [setPc_pc]
    omega
  | _ => exact Nat.le_trans hhi (by decide)

/-- CALL pushes the post-fetch `PC`; no other instruction adds a return address. -/
theorem Effect.return_le {i : Instr} {s t : State} (h : Effect i s t) (hhi : s.pc.toNat ≤ 0x1000)
    (hret : ∀ w ∈ s.stack, w.toNat ≤ 0x1000) : ∀ w ∈ t.stack, w.toNat ≤ 0x1000 := by
  cases h with
  | call w => exact List.forall_mem_cons.mpr ⟨hhi, hret⟩
  | ret w rest hstack => exact fun v hv => hret v (hstack ▸ List.mem_cons_of_mem w hv)
  | skip c => rwa [skipIf_stack]
  | _ => exact hret

/-! ## Each outcome of a step -/

theorem inv_takeFault (f : Fault) (pc0 : Word) (op : Option Word) (s : State) : (takeFault f pc0 op s).Inv where
  mem_wf := takeFault_mem_wf ..
  depth_le := takeFault_depth ..
  fault_iff := iff_of_true rfl rfl
  pc_le := fun h => absurd rfl h
  return_le := fun h => absurd rfl h

theorem State.Inv.endEvent {s : State} (h : s.Inv) : s.endEvent.Inv where
  mem_wf := h.mem_wf
  depth_le := h.depth_le
  fault_iff := h.fault_iff
  pc_le := h.pc_le
  return_le := h.return_le

theorem State.Inv.ackRender {s : State} (h : s.Inv) : s.ackRender.Inv where
  mem_wf := h.mem_wf
  depth_le := h.depth_le
  fault_iff := h.fault_iff
  pc_le := h.pc_le
  return_le := h.return_le

theorem State.goodEnd_of_running {s : State} (hs : s.status = .running) : s.goodEnd := fun h => nomatch hs.symm.trans h

theorem State.Inv.fault_of_running {s : State} (h : s.Inv) (hs : s.status = .running) : s.fault.isSome = false :=
  Bool.eq_false_iff.mpr fun hf => State.goodEnd_of_running hs (h.fault_iff.mp hf)

theorem State.Inv.quit {s : State} (h : s.Inv) : s.quit.Inv := by
  by_cases hs : s.status = .running
  · have hgood := State.goodEnd_of_running hs
    rw [quit_of_running hs]
    exact ⟨h.mem_wf, h.depth_le, iff_of_false (Bool.eq_false_iff.mp (h.fault_of_running hs)) (nomatch ·),
      fun _ => h.pc_le hgood, fun _ => h.return_le hgood⟩
  · rwa [quit_of_not_running hs]

/-- The state of a reset, whatever image its canonical memory holds. -/
theorem inv_reset_setMem {m : Memory} {host : List HostEvent} {taken : Nat} (hw : m.wf = true) :
    ({ State.reset.setMem m with host := host, taken := taken } : State).Inv where
  mem_wf := hw
  depth_le := Nat.zero_le _
  fault_iff := iff_of_false Bool.false_ne_true (nomatch ·)
  pc_le := fun _ => show (0x200 : Word).toNat ≤ 0x10FE by decide
  return_le := fun _ _ hw => absurd hw List.not_mem_nil

theorem inv_restart {s t : State} {rom : List Byte} (h : s.restart rom = .ok t) : t.Inv := by
  obtain ⟨m, hm, rfl⟩ := map_eq_ok h
  exact inv_reset_setMem (storeBytes_keeps_wf Memory.wf_reset hm)

/-- A completed instruction keeps the invariant: its form bounds `PC` and the stack by the post-fetch `PC`, which lies in
2..0x1000. -/
theorem inv_completed {s t u : State} {op : Word} {i : Instr} (h : s.Inv) (hs : s.status = .running)
    (hf : fetch s = .ok (op, t)) (hm : meaning i t.tick = .ok u) : u.Inv := by
  have hgood := State.goodEnd_of_running hs
  obtain ⟨hlt, -, rfl⟩ := fetch_eq_ok hf
  have hpc : (s.setPc (s.pc + 2)).tick.pc.toNat = s.pc.toNat + 2 := by
    rw [tick_pc, setPc_pc]
    simp only [Config.memSize] at hlt
    bv_omega
  have hhi : (s.setPc (s.pc + 2)).tick.pc.toNat ≤ 0x1000 := by
    simp only [Config.memSize] at hlt
    omega
  have he := effect_of_meaning hm
  have hstatus : u.status = s.status := he.same (p := .status) rfl
  have hfault : u.fault = s.fault := he.same (p := .fault) rfl
  exact ⟨he.mem_wf h.mem_wf, he.depth_le h.depth_le, by rw [hstatus, hfault]; exact h.fault_iff,
    fun _ => he.pc_le (by omega) hhi (h.return_le hgood), fun _ => he.return_le hhi (h.return_le hgood)⟩

/-- Settles O17: each outcome of a step keeps the invariant. -/
theorem stepKeepsInv : Obligations.StepKeepsInv := by
  intro s t h hstep
  cases stepOutcome_of_step hstep with
  | quit => exact h.quit.endEvent
  | renderAck => exact h.ackRender.endEvent
  | restarted rom t _ hr => exact (inv_restart hr).endEvent
  | idle => exact h.endEvent
  | cycle t _ hs hout =>
    cases hout with
    | fetchFault | unknown | faulted => exact (inv_takeFault ..).endEvent
    | completed op t i u hf _ hm => exact (inv_completed h hs hf hm).endEvent

/-- Settles O16: `inv_reset_setMem` for the reset state's own memory and queue. -/
theorem invHoldsAtReset : Obligations.InvHoldsAtReset := inv_reset_setMem Memory.wf_reset

end Sys2Proof.Machine
end

section
/-! Reset (spec/70_reset_and_hazards.md section 1) and the canonical form of memory (spec/20_memory.md). -/

namespace Sys2Proof.Machine

/-- D1, D15: unwritten memory is the font below 80 and zero above. -/
theorem resetByte_eq (a : Nat) : Memory.resetByte a = if a < 80 then Config.font.getD a 0 else 0 := by
  rw [Memory.resetByte, if_pos (Nat.zero_le a), Nat.sub_zero]
  split
  · rfl
  · next h => exact List.getD_eq_default _ _ (not_lt.mp h)

theorem reset_reg (r : Reg) : State.reset.reg r = 0 := by
  simp [State.reg, State.reset]

theorem reset_pixel (r : Fin 32) (c : Fin 64) : pixel State.reset.fb r c = false := pixel_clearScreen r c

/-- Settles O15: the fields of the reset state, and its memory by `resetByte_eq`. -/
theorem resetValues : Obligations.ResetValues :=
  ⟨rfl, rfl, rfl, rfl, reset_reg, rfl, rfl, rfl, rfl, reset_pixel, fun a _ => resetByte_eq a⟩

/-- Settles O14: a reset is the reset state with the image laid over its memory, above the font. -/
theorem hostResetRestarts : Obligations.HostResetRestarts := by
  intro s rom he
  refine ⟨fun hlen => ?fits, fun hlen => ?too_long⟩
  case fits =>
    obtain ⟨m, hr, -, hread⟩ := restart_ok (s := s) hlen
    refine ⟨_, step_of_reset_ok he hr, rfl, rfl, rfl, rfl, reset_reg, rfl, rfl, rfl, rfl, reset_pixel, fun a _ => ?_⟩
    rw [endEvent_mem]
    refine (hread a).trans ?_
    rw [resetByte_eq]
    by_cases hfont : a < 80
    · rw [if_neg (by omega), if_pos hfont, if_pos hfont]
    · rw [if_neg hfont, if_neg hfont]
  case too_long => exact step_of_reset_error he (restart_error hlen)

/-! ## The canonical form -/

/-- What the canonical form says of the first cell: the list is canonical from its address on, the cells after it lie
above it, and it differs from its reset contents. -/
theorem Memory.wfFrom_cons {lo k : Nat} {b : Byte} {rest : Memory} (h : Memory.wfFrom lo ((k, b) :: rest) = true) :
    Memory.wfFrom k ((k, b) :: rest) = true ∧ Memory.wfFrom (k + 1) rest = true ∧ b ≠ Memory.resetByte k := by
  simp only [Memory.wfFrom, Bool.and_eq_true, decide_eq_true_eq, bne_iff_ne] at h ⊢
  obtain ⟨⟨⟨-, hk⟩, hb⟩, hrest⟩ := h
  exact ⟨⟨⟨⟨Nat.le_refl k, hk⟩, hb⟩, hrest⟩, hrest, hb⟩

theorem Memory.read_cons_self (k : Nat) (b : Byte) (rest : Memory) : Memory.read ((k, b) :: rest) k = b := if_pos rfl

theorem Memory.read_cons_of_ne {a k : Nat} {b : Byte} {rest : Memory} (h : a ≠ k) :
    Memory.read ((k, b) :: rest) a = Memory.read rest a := if_neg h

/-- A canonical memory whose cells all lie above `k` does not read as one with a cell at `k`. -/
theorem Memory.read_ne_of_cells_above {lo k : Nat} {b : Byte} {rest m : Memory}
    (h : Memory.wfFrom lo ((k, b) :: rest) = true) (hm : m.wfFrom (k + 1) = true) :
    m.read k ≠ Memory.read ((k, b) :: rest) k := by
  rw [Memory.read_below (Nat.lt_succ_self k) hm, Memory.read_cons_self]
  exact (Memory.wfFrom_cons h).2.2.symm

theorem Memory.eq_of_read {m : Memory} : ∀ {m' : Memory} {lo : Nat}, m.wfFrom lo = true → m'.wfFrom lo = true →
    (∀ a, m.read a = m'.read a) → m = m' := by
  induction m with
  | nil =>
    rintro (_ | ⟨⟨k, b⟩, rest⟩) lo _ hw' hread
    · rfl
    · exact absurd (hread k) (Memory.read_ne_of_cells_above hw' rfl)
  | cons cell rest ih =>
    obtain ⟨k, b⟩ := cell
    rintro (_ | ⟨⟨k', b'⟩, rest'⟩) lo hw hw' hread
    · exact absurd (hread k).symm (Memory.read_ne_of_cells_above hw rfl)
    · obtain ⟨hself, hrest, -⟩ := Memory.wfFrom_cons hw
      obtain ⟨hself', hrest', -⟩ := Memory.wfFrom_cons hw'
      rcases Nat.lt_trichotomy k k' with hlt | rfl | hgt
      · exact absurd (hread k).symm (Memory.read_ne_of_cells_above hw (Memory.wfFrom_mono hlt hself'))
      · have hb : b = b' := by simpa only [Memory.read_cons_self] using hread k
        have htail : rest = rest' := ih hrest hrest' fun a => by
          by_cases ha : a < k + 1
          · rw [Memory.read_below ha hrest, Memory.read_below ha hrest']
          · have hne : a ≠ k := by omega
            simpa only [Memory.read_cons_of_ne hne] using hread a
        rw [hb, htail]
      · exact absurd (hread k') (Memory.read_ne_of_cells_above hw' (Memory.wfFrom_mono hgt hself))

/-- Settles O2: induction on the cells; where the first cells differ, one memory reads its reset contents there. -/
theorem canonicalMemoriesAreEqual : Obligations.CanonicalMemoriesAreEqual := fun _ _ => Memory.eq_of_read

end Sys2Proof.Machine
end

section
/-! Timers over runs of cycles (spec/45_keypad_timers.md section 2): a timer that no instruction of the run writes counts
the cycles down. -/

namespace Sys2Proof.Machine

/-- The state as fetch and tick leave it for the instruction of the cycle. -/
def State.fetched (s : State) : State := (s.setPc (s.pc + 2)).tick

theorem step_of_runsNext {s : State} {i : Instr} (h : s.runsNext i) : step s = thenEndEvent (exec i s.fetched) := by
  obtain ⟨hs, hc, op, t, hf, hd⟩ := h
  rw [step_of_known hc hs hf hd, (fetch_eq_ok hf).2.2]
  rfl

/-- A cycle that leaves the machine running has completed its instruction. -/
theorem meaning_of_runsNext {s u : State} {i : Instr} (h : s.runsNext i) (hstep : step s = .next u)
    (hu : u.status = .running) : ∃ w, meaning i s.fetched = .ok w ∧ u = w.endEvent := by
  rw [step_of_runsNext h] at hstep
  cases hm : meaning i s.fetched with
  | ok w =>
    rw [exec_of_meaning_ok hm] at hstep
    cases hstep
    exact ⟨w, rfl, rfl⟩
  | error f =>
    rw [exec_of_meaning_error hm] at hstep
    cases hstep
    cases hu

/-- A value that each cycle of a run takes one from, and that a render acknowledge leaves, is after `k` cycles `k` less, or
0. -/
theorem Cycles.countdown {p : Instr → Prop} {timer : State → Byte}
    (hcycle : ∀ {i s u}, p i → meaning i s.fetched = .ok u → (timer u.endEvent).toNat = (timer s).toNat - 1)
    (hack : ∀ s : State, timer s.ackRender.endEvent = timer s) {k : Nat} {s t : State} (h : Cycles p k s t) :
    (timer t).toNat = (timer s).toNat - k := by
  induction h with
  | start => rfl
  | cycle i _ hr hp hstep hu ih =>
    obtain ⟨w, hm, rfl⟩ := meaning_of_runsNext hr hstep hu
    rw [hcycle hp hm, ih]
    omega
  | ack _ ha hstep ih =>
    rw [step_of_renderAck ha] at hstep
    cases hstep
    rw [hack, ih]

theorem touches_delayTimer_of_ne {i : Instr} (h : ∀ z, i ≠ .lddtv z) : i.touches .delayTimer = false := by
  cases i
  case lddtv z => exact absurd rfl (h z)
  all_goals rfl

theorem touches_soundTimer_of_ne {i : Instr} (h : ∀ z, i ≠ .ldstv z) : i.touches .soundTimer = false := by
  cases i
  case ldstv z => exact absurd rfl (h z)
  all_goals rfl

theorem Cycles.dt_countdown {k : Nat} {s t : State} (h : Cycles (fun i => ∀ z, i ≠ .lddtv z) k s t) :
    t.dt.toNat = s.dt.toNat - k :=
  h.countdown (timer := State.dt) (fun {i s u} hi hm => by
    have hdt : u.dt = tickByte s.dt := (effect_of_meaning hm).same (p := .delayTimer) (touches_delayTimer_of_ne hi)
    rw [endEvent_dt, hdt, tickByte_toNat]) fun _ => rfl

theorem Cycles.st_countdown {k : Nat} {s t : State} (h : Cycles (fun i => ∀ z, i ≠ .ldstv z) k s t) :
    t.st.toNat = s.st.toNat - k :=
  h.countdown (timer := State.st) (fun {i s u} hi hm => by
    have hst : u.st = tickByte s.st := (effect_of_meaning hm).same (p := .soundTimer) (touches_soundTimer_of_ne hi)
    rw [endEvent_st, hst, tickByte_toNat]) fun _ => rfl

/-- Settles O20: the write, then the countdown, and one more tick before the read. -/
theorem timerReadLag : Obligations.TimerReadLag := by
  intro s x
  refine ⟨fun hrun => ⟨_, step_of_runsNext hrun, hrun.1, fun k u hk => ⟨?delay, fun y hy => ?read⟩⟩,
    fun hrun => ⟨_, step_of_runsNext hrun, hrun.1, fun k u hk => ?sound⟩⟩
  case delay => exact hk.dt_countdown
  case read =>
    refine ⟨_, step_of_runsNext hy, hy.1, ?_⟩
    have hread : ((u.fetched.setV y u.fetched.dt).endEvent.reg y) = tickByte u.dt := setV_reg_same ..
    refine (congrArg BitVec.toNat hread).trans ?_
    rw [tickByte_toNat, hk.dt_countdown]
    exact Nat.sub_sub ..
  case sound =>
    have hst : u.st.toNat = (s.reg x).toNat - k := hk.st_countdown
    rw [tone_iff, hst]
    exact ⟨rfl, Nat.sub_pos_iff_lt⟩

end Sys2Proof.Machine
end

section
/-! The memory instructions (spec/43_index_memory.md sections 1 and 3): LDBCD and STARR are a store of bytes at `I`,
LDARR and DRW a load of bytes from it. -/

namespace Sys2Proof.Machine

/-! ## Stores -/

theorem noFault_setMem (s : State) (m : Memory) : NoFault s (s.setMem m) := ⟨setMem_status s m, setMem_fault s m⟩

/-- An instruction that stores `bs` at `I`, inside memory: memory then reads as with the bytes laid over it. -/
theorem exec_store_ok {i : Instr} {s : State} {bs : List Byte} (hw : s.mem.wf = true)
    (hi : meaning i s = (storeBytes s.mem s.baseAddr bs).map s.setMem) (hb : s.i.toNat + bs.length ≤ 4096) :
    ∃ m, exec i s = .next (s.setMem m) ∧ ∀ c, m.read c = overlaid s.mem s.i.toNat bs c := by
  obtain ⟨m, hm, -, hread⟩ := storeBytes_overlaid (a := s.i.toNat) hw (Or.inr hb)
  exact ⟨m, exec_of_meaning_ok (by rw [hi, State.baseAddr, hm, map_ok]), hread⟩

/-- An instruction that stores `bs` at `I`, not all inside memory: it halts at the first address outside. -/
theorem exec_store_error {i : Instr} {s : State} {bs : List Byte}
    (hi : meaning i s = (storeBytes s.mem s.baseAddr bs).map s.setMem) (hne : bs ≠ [])
    (hb : 4096 < s.i.toNat + bs.length) :
    ∃ t, exec i s = .next t ∧ HaltedWith (memFaultRecord s (encode i) s.i.toNat) t :=
  ⟨_, exec_of_meaning_error (by rw [hi, State.baseAddr, storeBytes_error hne hb, map_error]), rfl, rfl⟩

/-- The same for a load of `n` bytes from `I`. -/
theorem exec_load_error {i : Instr} {s : State} {n : Nat} {g : List Byte → State}
    (hi : meaning i s = (loadBytes s.mem s.baseAddr n).map g) (hn : n ≠ 0) (hb : 4096 < s.i.toNat + n) :
    ∃ t, exec i s = .next t ∧ HaltedWith (memFaultRecord s (encode i) s.i.toNat) t :=
  ⟨_, exec_of_meaning_error (by rw [hi, State.baseAddr, loadBytes_error hn hb, map_error]), rfl, rfl⟩

theorem haltedAt_of_haltedWith {s t : State} {op : Word} {a : Nat} (h : HaltedWith (memFaultRecord s op a) t) :
    HaltedAt (firstBadAddr a) t :=
  ⟨h.1, _, h.2, rfl, rfl⟩

theorem regsUpTo_ne_nil (s : State) (x : Reg) : s.regsUpTo x ≠ [] :=
  List.ne_nil_of_length_pos (by rw [regsUpTo_length]; exact Nat.succ_pos _)

/-- Settles O8: each of the four is a load or a store of a known number of bytes at `I`. -/
theorem memoryFaultAddress : Obligations.MemoryFaultAddress := by
  intro s x y n
  refine ⟨fun hn hb => ?drw, fun hb => ?ldarr, fun hb => ?starr, fun hb => ?ldbcd⟩
  case drw => exact exec_load_error rfl (fun h => hn (Fin.ext h)) hb
  case ldarr => exact exec_load_error rfl (Nat.succ_ne_zero _) (Nat.lt_succ_of_le hb)
  case starr => exact exec_store_error rfl (regsUpTo_ne_nil s x) (by rw [regsUpTo_length]; omega)
  case ldbcd => exact exec_store_error rfl (List.cons_ne_nil _ _) (Nat.lt_succ_of_le hb)

theorem exec_ldbcd_ok {s : State} (x : Reg) (hw : s.mem.wf = true) (h : s.i.toNat ≤ 0xFFD) :
    ∃ m, exec (.ldbcd x) s = .next (s.setMem m) ∧
      ∀ c, m.read c = overlaid s.mem s.i.toNat (bcdDigits (s.reg x)) c :=
  exec_store_ok hw rfl (Nat.add_le_add_right h 3)

theorem exec_starr_ok {s : State} {x : Reg} (hw : s.mem.wf = true) (h : s.i.toNat + x.val ≤ 0xFFF) :
    ∃ m, exec (.starr x) s = .next (s.setMem m) ∧ ∀ c, m.read c = overlaid s.mem s.i.toNat (s.regsUpTo x) c :=
  exec_store_ok hw rfl (by rw [regsUpTo_length]; omega)

/-- After STARR the byte at `I + k` is register `k`. -/
theorem overlaid_regsUpTo (s : State) {x k : Reg} (h : k ≤ x) :
    overlaid s.mem s.i.toNat (s.regsUpTo x) (s.i.toNat + k.val) = s.reg k := by
  have hlt : k.val < (s.regsUpTo x).length := by
    rw [regsUpTo_length]
    exact Nat.lt_succ_of_le h
  rw [overlaid_covered hlt, regsUpTo_getD s x k h]

/-- The value of a decimal digit as a byte. -/
theorem digit_toNat {d : Nat} (h : d < 256) : (BitVec.ofNat 8 d).toNat = d := Nat.mod_eq_of_lt h

/-- Settles O35: the digits are the bytes laid over memory at `I`. -/
theorem bcdDigitsStored : Obligations.BcdDigitsStored := by
  intro s x hw
  refine ⟨fun hi => ?inside, fun hi => ?outside⟩
  case inside =>
    obtain ⟨m, hm, hread⟩ := exec_ldbcd_ok x hw hi
    have hx := (s.reg x).isLt
    have hbyte : ∀ k, k < 3 → (s.setMem m).mem.read (s.i.toNat + k) = (bcdDigits (s.reg x)).getD k 0 := fun k hk =>
      (hread _).trans (overlaid_covered hk)
    refine ⟨_, hm, ?_, ?_, ?_, rfl, rfl, rfl, noFault_setMem s m⟩
    · exact (congrArg BitVec.toNat (hbyte 0 (by decide))).trans (digit_toNat (by omega))
    · exact (congrArg BitVec.toNat (hbyte 1 (by decide))).trans (digit_toNat (by omega))
    · exact (congrArg BitVec.toNat (hbyte 2 (by decide))).trans (digit_toNat (by omega))
  case outside =>
    obtain ⟨t, ht, hhalt⟩ := exec_store_error (i := .ldbcd x) (bs := bcdDigits (s.reg x)) rfl (List.cons_ne_nil _ _)
      (show 4096 < s.i.toNat + 3 by omega)
    exact ⟨t, ht, haltedAt_of_haltedWith hhalt⟩

/-- Settles O36: the registers are the bytes laid over memory at `I`. -/
theorem registersStored : Obligations.RegistersStored := by
  intro s x hw
  refine ⟨fun hi => ?inside, fun hi => ?outside⟩
  case inside =>
    obtain ⟨m, hm, hread⟩ := exec_starr_ok hw hi
    exact ⟨_, hm, fun k hk => (hread _).trans (overlaid_regsUpTo s hk), rfl, fun _ => rfl, noFault_setMem s m⟩
  case outside =>
    obtain ⟨t, ht, hhalt⟩ := exec_store_error (i := .starr x) rfl (regsUpTo_ne_nil s x) (by rw [regsUpTo_length]; omega)
    exact ⟨t, ht, haltedAt_of_haltedWith hhalt⟩

/-! ## Loads -/

/-- The `n` bytes of memory from `a` on. -/
def bytesFrom (m : Memory) (a n : Nat) : List Byte := (List.range n).map fun k => m.read (a + k)

theorem bytesFrom_length (m : Memory) (a n : Nat) : (bytesFrom m a n).length = n := by
  rw [bytesFrom, List.length_map, List.length_range]

theorem bytesFrom_getD {m : Memory} {a n k : Nat} (h : k < n) : (bytesFrom m a n).getD k 0 = m.read (a + k) := by
  simp [bytesFrom, List.getD_eq_getElem?_getD, h]

theorem exec_ldarr_ok {s : State} {x : Reg} (h : s.i.toNat + x.val ≤ 0xFFF) :
    exec (.ldarr x) s = .next (s.setRegs (fillRegs s.v 0 (bytesFrom s.mem s.i.toNat (x.val + 1)))) := by
  have hload : loadBytes s.mem s.baseAddr (x.val + 1) = .ok (bytesFrom s.mem s.i.toNat (x.val + 1)) :=
    loadBytes_ok (Or.inr (Nat.succ_le_succ h))
  exact exec_of_meaning_ok (by rw [meaning, hload, map_ok])

/-- Register `k` after LDARR: the byte at `I + k` up to x, as before above. -/
theorem reg_ldarr (s : State) (x k : Reg) :
    (s.setRegs (fillRegs s.v 0 (bytesFrom s.mem s.i.toNat (x.val + 1)))).reg k =
      if k ≤ x then s.mem.read (s.i.toNat + k.val) else s.reg k := by
  have hget := fillRegs_get (bytesFrom s.mem s.i.toNat (x.val + 1)) s.v 0 k
  rw [bytesFrom_length] at hget
  refine hget.trans ?_
  by_cases hk : k ≤ x
  · have hlt : k.val < x.val + 1 := Nat.lt_succ_of_le hk
    rw [if_pos hk, if_pos (by omega), Nat.sub_zero, bytesFrom_getD hlt]
  · have hge : ¬k.val < x.val + 1 := fun h => hk (Nat.le_of_lt_succ h)
    rw [if_neg hk, if_neg (by omega)]
    rfl

/-- Settles O37: the bytes of memory from `I` on fill the registers up to x. -/
theorem registersLoaded : Obligations.RegistersLoaded := by
  intro s x
  refine ⟨fun hi => ?inside, fun hi => ?outside⟩
  case inside =>
    refine ⟨_, exec_ldarr_ok hi, fun k hk => ?_, fun r hr => ?_, rfl, rfl, rfl⟩
    · rw [reg_ldarr, if_pos hk]
    · rw [reg_ldarr, if_neg (not_le.mpr hr)]
  case outside =>
    obtain ⟨t, ht, hhalt⟩ := exec_load_error (i := .ldarr x) rfl (Nat.succ_ne_zero _)
      (show 4096 < s.i.toNat + (x.val + 1) by omega)
    exact ⟨t, ht, haltedAt_of_haltedWith hhalt⟩

/-- Settles O38: LDARR reads back, at the same `I`, the bytes that STARR laid over memory. -/
theorem storeThenLoadRestores : Obligations.StoreThenLoadRestores := by
  intro s x w hw hi
  obtain ⟨m, hm, hread⟩ := exec_starr_ok hw hi
  refine ⟨_, _, hm, exec_ldarr_ok hi, fun k => ?_⟩
  rw [reg_ldarr]
  by_cases hk : k ≤ x
  · rw [if_pos hk, if_pos hk]
    exact (hread _).trans (overlaid_regsUpTo s hk)
  · rw [if_neg hk, if_neg hk]
    rfl

/-! ## Stored code -/

theorem regsUpTo_eq (s : State) (x : Reg) : ((List.finRange 16).take (x.val + 1)).map s.reg = s.regsUpTo x := by
  refine List.ext_getElem (by simp [regsUpTo_length]) fun k h1 h2 => ?_
  simp [State.regsUpTo, State.reg]

/-- The fetch after a store reads the bytes laid over memory. -/
theorem fetch_setMem {s : State} {m : Memory} {f : Nat → Byte} (hpc : s.pc.toNat ≤ 0xFFE)
    (hread : ∀ c, m.read c = f c) :
    ∃ u, fetch (s.setMem m) = .ok (opcodeOfBytes (f s.pc.toNat) (f (s.pc.toNat + 1)), u) := by
  have hfetch := fetch_ok (s := s.setMem m) (show s.pc.toNat + 1 < 4096 by omega)
  rw [setMem_mem, setMem_pc, hread, hread] at hfetch
  exact ⟨_, hfetch⟩

/-- Settles O39: the next fetch reads memory as the store left it. -/
theorem storeToCodeIsFetched : Obligations.StoreToCodeIsFetched := by
  intro s x hw hpc
  refine ⟨fun hi => ?starr, fun j k hjk hkx hpcj hi => ?both, fun hi => ?ldbcd⟩
  case starr =>
    obtain ⟨m, hm, hread⟩ := exec_starr_ok hw hi
    obtain ⟨u, hu⟩ := fetch_setMem hpc hread
    exact ⟨_, u, hm, by rw [regsUpTo_eq]; exact hu⟩
  case both =>
    obtain ⟨m, hm, hread⟩ := exec_starr_ok hw hi
    obtain ⟨u, hu⟩ := fetch_setMem hpc hread
    have hkx' : k.val ≤ x.val := hkx
    have hjx : j ≤ x := Fin.le_def.mpr (by omega)
    have hpck : s.pc.toNat + 1 = s.i.toNat + k.val := by omega
    rw [hpck, hpcj, overlaid_regsUpTo s hjx, overlaid_regsUpTo s hkx] at hu
    exact ⟨_, u, hm, hu⟩
  case ldbcd =>
    obtain ⟨m, hm, hread⟩ := exec_ldbcd_ok x hw hi
    obtain ⟨u, hu⟩ := fetch_setMem hpc hread
    exact ⟨_, u, hm, hu⟩

/-! ## Frames -/

/-- A store of bytes at `a` changes no part but them. -/
theorem changesOnly_setMem {s : State} {m : Memory} {a : Nat} {bs : List Byte}
    (hread : ∀ c, m.read c = overlaid s.mem a bs c) : ChangesOnly (bytesAt a bs.length) s (s.setMem m) := by
  refine fun p hp => same_setMem s fun c hc => ?_
  rw [hread, overlaid_outside]
  by_contra hin
  refine hp ?_
  rw [hc, bytesAt, List.mem_map]
  exact ⟨c - a, List.mem_range.mpr (by omega), congrArg Part.byte (by omega)⟩

/-- Settles O57: the two stores cover the bytes named, the load the registers named. -/
theorem frameMemory : Obligations.FrameMemory := by
  intro s t x i hw he
  refine ⟨?ldbcd, ?starr, ?ldarr⟩
  case ldbcd =>
    rintro rfl hi
    obtain ⟨m, hm, hread⟩ := exec_ldbcd_ok x hw hi
    rw [hm] at he
    cases he
    exact changesOnly_setMem hread
  case starr =>
    rintro rfl hi
    obtain ⟨m, hm, hread⟩ := exec_starr_ok hw hi
    rw [hm] at he
    cases he
    exact regsUpTo_length s x ▸ changesOnly_setMem hread
  case ldarr =>
    rintro rfl hi
    rw [exec_ldarr_ok hi] at he
    cases he
    refine fun p hp => same_setRegs s fun r hr => (reg_ldarr s x r).trans (if_neg fun hrx => hp ?_)
    rw [hr, regsThrough, List.mem_map]
    exact ⟨r, by simpa using hrx, rfl⟩

end Sys2Proof.Machine
end

section
/-! The compositor (spec/44_display.md): a sprite is drawn bit by bit, and what each stage of the drawing does is the XOR of
a set of pixels, with a collision exactly when one of them was lit (`Draws`). -/

namespace Sys2Proof.Machine

/-- From canvas `a` to canvas `b` exactly the pixels of `cover` were flipped, and a collision was added exactly when one of
them was lit in `a`. -/
structure Draws (cover : Fin 32 → Fin 64 → Bool) (a b : Canvas) : Prop where
  pixels : ∀ r c, pixel b.fb r c = (pixel a.fb r c ^^ cover r c)
  collision : b.coll = true ↔ a.coll = true ∨ ∃ r c, pixel a.fb r c = true ∧ cover r c = true

theorem Draws.none (a : Canvas) : Draws (fun _ _ => false) a a where
  pixels := fun _ _ => (Bool.xor_false _).symm
  collision := by simp

/-- Two stages that share no pixel are one stage. -/
theorem Draws.trans {f g : Fin 32 → Fin 64 → Bool} {a b c : Canvas} (h : Draws f a b) (h' : Draws g b c)
    (hdisj : ∀ r c, f r c = true → g r c = false) : Draws (fun r c => f r c || g r c) a c where
  pixels := fun r c => by
    rw [h'.pixels, h.pixels]
    cases hf : f r c with
    | false => simp
    | true => simp [hdisj r c hf]
  collision := by
    have hlater : ∀ r c, g r c = true → pixel b.fb r c = pixel a.fb r c := fun r c hg => by
      have hf : f r c = false := by
        by_contra hf
        rw [hdisj r c (by simpa using hf)] at hg
        cases hg
      rw [h.pixels, hf, Bool.xor_false]
    rw [h'.collision, h.collision, or_assoc]
    refine or_congr_right ⟨?_, ?_⟩
    · rintro (⟨r, c, hp, hf⟩ | ⟨r, c, hp, hg⟩)
      · exact ⟨r, c, hp, by simp [hf]⟩
      · exact ⟨r, c, (hlater r c hg).symm.trans hp, by simp [hg]⟩
    · rintro ⟨r, c, hp, hfg⟩
      rcases Bool.or_eq_true_iff.mp hfg with hf | hg
      · exact .inl ⟨r, c, hp, hf⟩
      · exact .inr ⟨r, c, (hlater r c hg).trans hp, hg⟩

/-- The one pixel of a sprite bit. -/
theorem draws_drawBit (cv : Canvas) (row col : Nat) (bit : Bool) :
    Draws (fun r c => decide (r = wrapRow row ∧ c = wrapCol col) && bit) cv (drawBit cv row col bit) where
  pixels := fun r c => by
    rw [pixel_drawBit]
    by_cases h : r = wrapRow row ∧ c = wrapCol col <;> simp [h]
  collision := by
    rw [coll_drawBit, Bool.or_eq_true_iff, Bool.and_eq_true_iff]
    refine or_congr_right ⟨fun ⟨hb, hp⟩ => ⟨wrapRow row, wrapCol col, hp, by simp [hb]⟩, ?_⟩
    rintro ⟨r, c, hp, hc⟩
    simp only [Bool.and_eq_true_iff, decide_eq_true_iff] at hc
    obtain ⟨⟨rfl, rfl⟩, hb⟩ := hc
    exact ⟨hb, hp⟩

/-! ## Offsets around the edges -/

/-- How many rows below the start row a pixel lies, counted around the edge. -/
def rowOffset (y0 : Nat) (r : Fin 32) : Nat := (r.val + (32 - y0 % 32)) % 32

/-- How many columns right of the start column a pixel lies, counted around the edge. -/
def colOffset (x0 : Nat) (c : Fin 64) : Nat := (c.val + (64 - x0 % 64)) % 64

theorem eq_wrapRow_iff (y0 : Nat) (r : Fin 32) : r = wrapRow y0 ↔ rowOffset y0 r = 0 := by
  rw [rowOffset, Fin.ext_iff, show (wrapRow y0).val = y0 % 32 from rfl]
  omega

theorem eq_wrapCol_iff {x0 k : Nat} (hk : k < 64) (c : Fin 64) : c = wrapCol (x0 + k) ↔ colOffset x0 c = k := by
  rw [colOffset, Fin.ext_iff, show (wrapCol (x0 + k)).val = (x0 + k) % 64 from rfl]
  omega

theorem rowOffset_succ_of_zero {y0 : Nat} {r : Fin 32} (h : rowOffset y0 r = 0) : rowOffset (y0 + 1) r = 31 := by
  rw [rowOffset] at h ⊢
  omega

theorem rowOffset_succ_of_ne_zero {y0 : Nat} {r : Fin 32} (h : rowOffset y0 r ≠ 0) :
    rowOffset y0 r = rowOffset (y0 + 1) r + 1 := by
  rw [rowOffset] at h ⊢
  rw [rowOffset]
  omega

/-! ## Rows and sprites in closed form -/

/-- The pixels of the first `k` bits of a sprite row that are 1. -/
def rowCover (row x0 : Nat) (byte : Byte) (k : Nat) (r : Fin 32) (c : Fin 64) : Bool :=
  decide (r = wrapRow row) && (decide (colOffset x0 c < k) && spriteBit byte (colOffset x0 c))

/-- The pixels of the 1 bits of a sprite. -/
def spriteCover (x0 y0 : Nat) (rows : List Byte) (r : Fin 32) (c : Fin 64) : Bool :=
  decide (rowOffset y0 r < rows.length) &&
    (decide (colOffset x0 c < 8) && spriteBit (rows.getD (rowOffset y0 r) 0) (colOffset x0 c))

/-- One more bit of a row covers the pixel at its column. -/
theorem rowCover_succ {row x0 k : Nat} (hk : k < 64) (byte : Byte) : rowCover row x0 byte (k + 1) = fun r c =>
    rowCover row x0 byte k r c || (decide (r = wrapRow row ∧ c = wrapCol (x0 + k)) && spriteBit byte k) := by
  funext r c
  simp only [rowCover, eq_wrapCol_iff hk, Nat.lt_succ_iff_lt_or_eq]
  by_cases hc : colOffset x0 c = k
  · simp [hc]
  · simp [hc]

theorem draws_bits (cv : Canvas) (row x0 : Nat) (byte : Byte) : ∀ k ≤ 64, Draws (rowCover row x0 byte k) cv
    ((List.range k).foldl (fun c b => drawBit c row (x0 + b) (spriteBit byte b)) cv)
  | 0, _ => by
    have hnone : rowCover row x0 byte 0 = fun _ _ => false := by
      funext r c
      simp [rowCover]
    rw [hnone]
    exact Draws.none cv
  | k + 1, hk => by
    rw [List.range_succ, List.foldl_append, rowCover_succ hk]
    refine (draws_bits cv row x0 byte k (Nat.le_of_succ_le hk)).trans (draws_drawBit ..) fun r c hcov => ?_
    have hlt : colOffset x0 c < k := by
      simp only [rowCover, Bool.and_eq_true_iff, decide_eq_true_iff] at hcov
      exact hcov.2.1
    simp [eq_wrapCol_iff hk, Nat.ne_of_lt hlt]

theorem draws_drawRow (cv : Canvas) (row x0 : Nat) (byte : Byte) :
    Draws (rowCover row x0 byte 8) cv (drawRow cv row x0 byte) :=
  draws_bits cv row x0 byte 8 (by decide)

/-- A sprite is its first row and, one row further down, the rest. -/
theorem spriteCover_cons {x0 y0 : Nat} {byte : Byte} {rest : List Byte} (h : rest.length < 32) :
    spriteCover x0 y0 (byte :: rest) = fun r c => rowCover y0 x0 byte 8 r c || spriteCover x0 (y0 + 1) rest r c := by
  funext r c
  simp only [spriteCover, rowCover, eq_wrapRow_iff, List.length_cons]
  by_cases h0 : rowOffset y0 r = 0
  · have h31 : ¬31 < rest.length := by omega
    simp [h0, rowOffset_succ_of_zero h0, h31]
  · simp [rowOffset_succ_of_ne_zero h0]

theorem draws_drawSprite (x0 : Nat) : ∀ (rows : List Byte) (cv : Canvas) (y0 : Nat), rows.length ≤ 32 →
    Draws (spriteCover x0 y0 rows) cv (drawSprite cv x0 y0 rows)
  | [], cv, y0, _ => by
    have hnone : spriteCover x0 y0 [] = fun _ _ => false := by
      funext r c
      simp [spriteCover]
    rw [hnone]
    exact Draws.none cv
  | byte :: rest, cv, y0, h => by
    have hlt : rest.length < 32 := h
    rw [spriteCover_cons hlt]
    refine (draws_drawRow cv y0 x0 byte).trans (draws_drawSprite x0 rest _ (y0 + 1) hlt.le) fun r c hcov => ?_
    have h0 : rowOffset y0 r = 0 := by
      simp only [rowCover, Bool.and_eq_true_iff, decide_eq_true_iff] at hcov
      exact (eq_wrapRow_iff y0 r).mp hcov.1
    have h31 : ¬31 < rest.length := by omega
    simp [spriteCover, rowOffset_succ_of_zero h0, h31]

/-! ## DRW -/

/-- The cover of the sprite that DRW reads at `I` is the closed form of the statements. -/
theorem spriteCover_bytesFrom (s : State) (x0 y0 n : Nat) :
    spriteCover x0 y0 (bytesFrom s.mem s.i.toNat n) = spriteOnPixel s x0 y0 n := by
  funext r c
  rw [spriteCover, bytesFrom_length, spriteOnPixel, Bool.and_assoc]
  by_cases h : rowOffset y0 r < n
  · rw [bytesFrom_getD h]
    rfl
  · have hrow : decide (rowOffset y0 r < n) = false := decide_eq_false h
    rw [hrow, Bool.false_and]
    exact (Bool.false_and _).symm.trans (congrArg (· && _) hrow.symm)

theorem exec_drw_ok {s : State} {n : Fin 16} (x y : Reg) (h : n = 0 ∨ s.i.toNat + n.val ≤ 4096) :
    exec (.drw x y n) s = .next (drawn x y s (bytesFrom s.mem s.i.toNat n.val)) := by
  have hload : loadBytes s.mem s.baseAddr n.val = .ok (bytesFrom s.mem s.i.toNat n.val) :=
    loadBytes_ok (h.imp_left (congrArg Fin.val))
  exact exec_of_meaning_ok (by rw [meaning, hload, map_ok])

/-- The framebuffer that DRW leaves, and its collision flag. -/
theorem draws_drawn (x y : Reg) (s : State) (n : Fin 16) :
    Draws (spriteOnPixel s (s.reg x).toNat (s.reg y).toNat n.val) ⟨s.fb, false⟩
      (drawSprite ⟨s.fb, false⟩ (s.reg x).toNat (s.reg y).toNat (bytesFrom s.mem s.i.toNat n.val)) := by
  rw [← spriteCover_bytesFrom]
  exact draws_drawSprite _ _ _ _ (by rw [bytesFrom_length]; omega)

theorem drawn_fb (x y : Reg) (s : State) (rows : List Byte) :
    (drawn x y s rows).fb = (drawSprite ⟨s.fb, false⟩ (s.reg x).toNat (s.reg y).toNat rows).fb := rfl

theorem drawn_vf (x y : Reg) (s : State) (rows : List Byte) : (drawn x y s rows).reg Reg.vf =
    flagByte (drawSprite ⟨s.fb, false⟩ (s.reg x).toNat (s.reg y).toNat rows).coll :=
  setV_reg_same ..

theorem drawn_reg_of_ne {x y r : Reg} {s : State} {rows : List Byte} (h : r ≠ Reg.vf) :
    (drawn x y s rows).reg r = s.reg r :=
  setV_reg_of_ne h.symm

theorem changesOnly_drawn (x y : Reg) (s : State) (rows : List Byte) :
    ChangesOnly [.display, .changed, .reg Reg.vf] s (drawn x y s rows) :=
  (changesOnly_setDisplay s _).trans (changesOnly_setV _ Reg.vf _)

theorem flagByte_eq_one_iff (b : Bool) : flagByte b = 1 ↔ b = true := by cases b <;> simp [flagByte]

/-- The pixels and the flag that DRW leaves, in closed form. -/
theorem pixel_drawn (x y : Reg) (s : State) (n : Fin 16) (r : Fin 32) (c : Fin 64) :
    pixel (drawn x y s (bytesFrom s.mem s.i.toNat n.val)).fb r c =
      (pixel s.fb r c ^^ spriteOnPixel s (s.reg x).toNat (s.reg y).toNat n.val r c) := by
  rw [drawn_fb]
  exact (draws_drawn x y s n).pixels r c

theorem vf_drawn_eq_one_iff (x y : Reg) (s : State) (n : Fin 16) :
    (drawn x y s (bytesFrom s.mem s.i.toNat n.val)).reg Reg.vf = 1 ↔ ∃ r c, pixel s.fb r c = true ∧
      spriteOnPixel s (s.reg x).toNat (s.reg y).toNat n.val r c = true := by
  rw [drawn_vf, flagByte_eq_one_iff, (draws_drawn x y s n).collision]
  exact or_iff_right Bool.false_ne_true

/-- Settles O41: the loops of the compositor draw the closed form (`draws_drawSprite`). -/
theorem drawXorsSprite : Obligations.DrawXorsSprite := by
  intro s x y n h
  refine ⟨_, exec_drw_ok x y h, pixel_drawn x y s n, ?_, vf_drawn_eq_one_iff x y s n, rfl, rfl, rfl⟩
  rw [drawn_vf]
  exact flagByte_cases _

theorem framebuffer_ext {fb fb' : Framebuffer} (h : ∀ r c, pixel fb r c = pixel fb' r c) : fb = fb' :=
  Vector.ext fun r hr => Vector.ext fun c hc => h ⟨r, hr⟩ ⟨c, hc⟩

/-- Settles O42: the second DRW puts the same sprite on the pixels that the first left. -/
theorem drawTwiceRestores : Obligations.DrawTwiceRestores := by
  intro s x y n hx hy h
  have hagain : ∀ rows, spriteOnPixel (drawn x y s rows) ((drawn x y s rows).reg x).toNat ((drawn x y s rows).reg y).toNat
      n.val = spriteOnPixel s (s.reg x).toNat (s.reg y).toNat n.val := fun rows => by
    rw [drawn_reg_of_ne hx, drawn_reg_of_ne hy]
    rfl
  refine ⟨_, _, exec_drw_ok x y h, exec_drw_ok x y h, framebuffer_ext fun r c => ?restored, ?collision⟩
  case restored => rw [pixel_drawn, hagain, pixel_drawn, Bool.xor_assoc, Bool.xor_self, Bool.xor_false]
  case collision =>
    rw [vf_drawn_eq_one_iff, hagain]
    refine exists_congr fun r => exists_congr fun c => and_congr_left fun hcov => ?_
    rw [pixel_drawn, hcov, Bool.xor_true, Bool.not_eq_true']

/-- Settles O58: one operation, or two for DRW, in every case that does not fault. -/
theorem frameDisplayAndKeypad : Obligations.FrameDisplayAndKeypad := by
  intro s t x y n i he
  refine ⟨?cls, ?drw, fun hi hlt => ?skips, ?ldk⟩
  case cls =>
    rintro rfl
    cases he
    exact changesOnly_setDisplay s _
  case drw =>
    rintro rfl h
    rw [exec_drw_ok x y h] at he
    cases he
    exact changesOnly_drawn x y s _
  case skips =>
    have hk : (s.reg x).toNat = (⟨(s.reg x).toNat, hlt⟩ : Fin 16).val := rfl
    simp only [List.mem_cons, List.not_mem_nil, or_false] at hi
    rcases hi with rfl | rfl
    · rw [exec_skp_ok hk] at he
      cases he
      exact changesOnly_skipIf s _
    · rw [exec_sknp_ok hk] at he
      cases he
      exact changesOnly_skipIf s _
  case ldk =>
    rintro rfl
    cases hkey : firstKey s.keysNow with
    | some k =>
      rw [exec_ldk_some hkey] at he
      cases he
      exact .inr (changesOnly_setV s x _)
    | none =>
      rw [exec_ldk_none hkey] at he
      cases he
      exact .inl (changesOnly_setPc s _)

end Sys2Proof.Machine
end
